-- ==== Sys2Proof/Word.lean ====
section
/-! DEFINITION. The word types of the MIDI4CV event core (spec/00_scope.md R9). All values are unsigned. -/

namespace Sys2Proof

/-- A byte: 8 bits, bit 7 the most significant (R9). -/
abbrev Byte := BitVec 8

/-- An item of `OUTQ` and the value of port `out_data`: the 25-bit OutputEvent word (R32, R58). -/
abbrev OutWord := BitVec 25

end Sys2Proof
end

