-- ==== Sys2Proof/Config.lean ====
section
/-! DEFINITION. The implementation parameters (spec/00_scope.md R7) and the free values of the model:
the output bits that the spec leaves unspecified (spec/93_implementation_defined.md I2, I3). -/

namespace Sys2Proof

/-- The parameters of one instance (R7), fixed for its life. None has a value in the spec, so they are an argument of the
model: a state carries the parameters of its instance in `State.cfg`, no step changes them, and every statement holds for
every legal set. Plain naturals, so that an illegal set can be presented and is refused (R158). `CFG_W` is fixed at 32 and is
the width of `PortsIn.cfgValue`. -/
structure Config where
  /-- `SER_DEPTH`, at least 1. -/
  serDepth : Nat
  /-- `BTN_DEPTH`, at least 1. -/
  btnDepth : Nat
  /-- `OUT_DEPTH`, at least 1. -/
  outDepth : Nat
  /-- `SYSEX_CAP`, at least 1. -/
  sysexCap : Nat
  /-- `LONG_TICKS`, 0 to `VLONG_TICKS`. -/
  longTicks : Nat
  /-- `VLONG_TICKS`, at least 1. -/
  vlongTicks : Nat
  /-- `MOD_CC_ID`, 0 to 127. -/
  modCcId : Nat
  /-- `BTN_ID`, 0 to 255. -/
  btnId : Nat
  /-- `MASK_RESET`, 0 to 0xFFFF. -/
  maskReset : Nat
  /-- `MODE_RESET`, 0 to 3. -/
  modeReset : Nat
  deriving DecidableEq, Repr

/-- DESIGN CHOICE (notes/assumptions/1.md): the parameter set of the instance that `State.reset` shows. The spec gives no
parameter a value; these are the ones its own Program 1 and decoder vectors use (spec/95_test_vectors.md). No statement
rests on them. -/
def Config.default : Config where
  serDepth := 4
  btnDepth := 2
  outDepth := 4
  sysexCap := 4
  longTicks := 4
  vlongTicks := 10
  modCcId := 1
  btnId := 0
  maskReset := 0xFFFF
  modeReset := 0

/-- FREE VALUE: `out_data` in the n-th cycle while `out_valid = 0` (R125, I3). -/
opaque Config.freeOutData : Nat → BitVec 25

/-- FREE VALUE: `dec_evt_status` in the n-th cycle while no event is emitted (R60 gives it a value per event kind only). -/
opaque Config.freeEvtStatus : Nat → BitVec 8

/-- FREE VALUE: byte `k` of `sx_buf` in the n-th cycle, where R60 leaves it unspecified (I2). -/
opaque Config.freeSxByte : Nat → Nat → BitVec 8

end Sys2Proof
end

