-- ==== Sys2Proof/Syntax.lean ====
section
/-! DEFINITION. The input alphabet of the block (spec/00_scope.md R2): the ports of one cycle, the values that cross them,
and `Instr` with one constructor per row of spec/opcode_table.json, in the table's order. -/

namespace Sys2Proof

/-- The button edge item (R56): the bit is the pin level after the edge. -/
inductive Edge where
  /-- 0: a press. -/
  | falling
  /-- 1: a release. -/
  | rising
  deriving DecidableEq, Repr

/-- The press kinds of a ButtonEvent (R58). Code 3 is never produced, so it is no constructor. -/
inductive PressKind where
  | short
  | long
  | veryLong
  deriving DecidableEq, Repr

/-- The input ports of one cycle (R53), `clk` apart: one step is one cycle of it (R141). -/
structure PortsIn where
  rst      : Bool
  decClear : Bool
  serPush  : Bool
  serData  : Byte
  btnPush  : Bool
  btnEdge  : BitVec 1
  tick     : Bool
  decRun   : Bool
  btnRun   : Bool
  cfgWe    : Bool
  cfgSel   : BitVec 2
  cfgValue : BitVec 32
  outPop   : Bool
  deriving DecidableEq, Repr

/-- A cycle with no input: absent inputs are 0 (R66). -/
def PortsIn.idle : PortsIn where
  rst := false
  decClear := false
  serPush := false
  serData := 0
  btnPush := false
  btnEdge := 0
  tick := false
  decRun := false
  btnRun := false
  cfgWe := false
  cfgSel := 0
  cfgValue := 0
  outPop := false

/-- The operations of the block: one constructor per row of spec/opcode_table.json. The byte rows carry their operand field
(`b[6:0]` or the channel `b[3:0]`), the port and internal rows the values the row's encoding names. -/
inductive Instr where
  /-- `DATA` (R80): a data byte 0x00..0x7F; its 7-bit value. -/
  | data (value : BitVec 7)
  /-- `NOTE_OFF` (R81). -/
  | noteOff (ch : BitVec 4)
  /-- `NOTE_ON` (R82). -/
  | noteOn (ch : BitVec 4)
  /-- `POLY_PRESSURE` (R83). -/
  | polyPressure (ch : BitVec 4)
  /-- `CONTROL_CHANGE` (R84). -/
  | controlChange (ch : BitVec 4)
  /-- `PROGRAM_CHANGE` (R85). -/
  | programChange (ch : BitVec 4)
  /-- `CHANNEL_PRESSURE` (R86). -/
  | channelPressure (ch : BitVec 4)
  /-- `PITCH_BEND` (R87). -/
  | pitchBend (ch : BitVec 4)
  /-- `SYSEX_START` (R88). -/
  | sysexStart
  /-- `TIME_CODE` (R89). -/
  | timeCode
  /-- `SONG_POSITION` (R90). -/
  | songPosition
  /-- `SONG_SELECT` (R91). -/
  | songSelect
  /-- `UNREC_F4` (R92). -/
  | unrecF4
  /-- `UNREC_F5` (R94). -/
  | unrecF5
  /-- `UNREC_F6` (R95). -/
  | unrecF6
  /-- `SYSEX_END` (R93). -/
  | sysexEnd
  /-- `RT_F8` (R99). -/
  | rtF8
  /-- `UNREC_F9` (R96). -/
  | unrecF9
  /-- `RT_FA` (R100). -/
  | rtFA
  /-- `RT_FB` (R101). -/
  | rtFB
  /-- `RT_FC` (R102). -/
  | rtFC
  /-- `UNREC_FD` (R97). -/
  | unrecFD
  /-- `UNREC_FE` (R98). -/
  | unrecFE
  /-- `RT_FF` (R103). -/
  | rtFF
  /-- `BTN_FALL` (R106). -/
  | btnFall
  /-- `BTN_RISE` (R109). -/
  | btnRise
  /-- `TICK` (R108). -/
  | tick
  /-- `CFG_MODE` (R137). -/
  | cfgMode (value : BitVec 32)
  /-- `CFG_MASK` (R136). -/
  | cfgMask (value : BitVec 32)
  /-- `CFG_RSVD` (R139): `cfg_sel` is 2 or 3. -/
  | cfgRsvd (sel : BitVec 2) (value : BitVec 32)
  /-- `SER_PUSH` (R119). -/
  | serPush (b : Byte)
  /-- `BTN_PUSH` (R121). -/
  | btnPush (e : Edge)
  /-- `OUT_POP` (R125). -/
  | outPop
  /-- `DEC_CLEAR` (R172). -/
  | decClear
  /-- `RST` (R170). -/
  | rst
  /-- `SER_POP` (R120). -/
  | serPop
  /-- `BTN_POP` (R122). -/
  | btnPop
  /-- `OUT_PUSH_MIDI` (R123): `MidiCommand(status, data0, data1)`. -/
  | outPushMidi (status d0 d1 : Byte)
  /-- `OUT_PUSH_BTN` (R124): `ButtonEvent(BTN_ID, kind)`; the id is the instance's parameter, not an operand. -/
  | outPushBtn (kind : PressKind)
  deriving DecidableEq, Repr

end Sys2Proof
end

