-- ==== Sys2Proof/WellFormed.lean ====
section
/-! DEFINITION. The well-formed instructions. Most operands are as wide as their field and need no check; the checks left
are the reserved selector of `CFG_RSVD` and the OUT word of `OUT_PUSH_MIDI`. -/

namespace Sys2Proof

/-- The statuses of the MidiCommands that the filter passes: NoteOff, NoteOn, ControlChange, PitchBend (R127, R130). -/
def passedStatus (status : Byte) : Bool :=
  let kind := status.extractLsb' 4 4
  kind == 0x8 || kind == 0x9 || kind == 0xB || kind == 0xE

/-- A data byte has bit 7 clear (R12, R62). -/
def dataByte (b : Byte) : Bool := !b.getLsbD 7

/-- Which terms stand for a form the spec gives. `CFG_RSVD` is `cfg_sel` 2 or 3 (R139); an `OUT_PUSH_MIDI` word has a status
of a kind the filter passes (R127) and two 7-bit data bytes (R62). -/
def Instr.wf : Instr → Bool
  | .cfgRsvd sel _ => sel == 2 || sel == 3
  | .outPushMidi status d0 d1 => passedStatus status && dataByte d0 && dataByte d1
  | .data _ | .noteOff _ | .noteOn _ | .polyPressure _ | .controlChange _ | .programChange _ | .channelPressure _
  | .pitchBend _ | .sysexStart | .timeCode | .songPosition | .songSelect | .unrecF4 | .unrecF5 | .unrecF6 | .sysexEnd
  | .rtF8 | .unrecF9 | .rtFA | .rtFB | .rtFC | .unrecFD | .unrecFE | .rtFF | .btnFall | .btnRise | .tick | .cfgMode _
  | .cfgMask _ | .serPush _ | .btnPush _ | .outPop | .decClear | .rst | .serPop | .btnPop | .outPushBtn _ => true

end Sys2Proof
end

