-- ==== Sys2Proof/Decode.lean ====
section
/-! DEFINITION. Decoding and encoding (spec/30_encoding.md). A row of spec/opcode_table.json is encoded in one of four forms:
an input byte (R54, R55), an edge item (R56), an assignment of the input ports (R53, R57), or an OUT word (R58). -/

namespace Sys2Proof

/-- What stands for an instruction at the block's boundary, by the table's formats: `midi_byte`, `btn_edge`, the port forms
(`port_strobe`, `cfg_write` and the two pops, whose encoding names the ports `dec_run` and `btn_run`), and the OUT word of the
two internal pushes. -/
inductive Code where
  | midiByte (b : Byte)
  | btnEdge (e : BitVec 1)
  | ports (p : PortsIn)
  | outWord (w : OutWord)
  deriving DecidableEq, Repr

/-- Why a code stands for no single instruction. No input byte and no edge item is ever rejected (R64). -/
inductive DecodeError where
  /-- The ports ask for nothing this cycle. -/
  | noRequest
  /-- The ports ask for several operations in one cycle: no single instruction. -/
  | severalRequests
  /-- Tag 0 with a status of no kind that the filter passes (R127). -/
  | notPassedStatus
  /-- Tag 0 with a data field whose bit 7 is set (R62). -/
  | notDataByte
  /-- Tag 1 with an id that is not this instance's `BTN_ID` (R127). -/
  | foreignButtonId
  /-- Tag 1 with a bit set that R58 shows as 0. -/
  | nonzeroReserved
  /-- Tag 1 with press kind 3, which is never produced (R58). -/
  | reservedPressKind
  deriving DecidableEq, Repr

/-! ## Input bytes -/

/-- The opcode map (R55): bit 7 clear is a data byte; 0x80..0xEF are told apart by the high nibble, 0xF0..0xFF by the whole
byte. Total: every one of the 256 values has exactly one row. -/
def decodeByte (b : Byte) : Instr :=
  let ch := b.extractLsb' 0 4
  match (b.extractLsb' 4 4).toNat with
  | 0x8 => .noteOff ch
  | 0x9 => .noteOn ch
  | 0xA => .polyPressure ch
  | 0xB => .controlChange ch
  | 0xC => .programChange ch
  | 0xD => .channelPressure ch
  | 0xE => .pitchBend ch
  | 0xF =>
    match ch.toNat with
    | 0x0 => .sysexStart
    | 0x1 => .timeCode
    | 0x2 => .songPosition
    | 0x3 => .songSelect
    | 0x4 => .unrecF4
    | 0x5 => .unrecF5
    | 0x6 => .unrecF6
    | 0x7 => .sysexEnd
    | 0x8 => .rtF8
    | 0x9 => .unrecF9
    | 0xA => .rtFA
    | 0xB => .rtFB
    | 0xC => .rtFC
    | 0xD => .unrecFD
    | 0xE => .unrecFE
    | _   => .rtFF
  | _ => .data (b.extractLsb' 0 7)

/-- A channel status byte (R54): kind in the high nibble, channel in the low one. -/
def statusByte (kind ch : BitVec 4) : Byte := kind ++ ch

/-- A data byte (R54): bit 7 clear, the value below it. -/
def dataByteOf (value : BitVec 7) : Byte := (0#1 : BitVec 1) ++ value

/-! ## Edge items -/

/-- The edge item of a port or queue bit: 0 falling, 1 rising (R56). -/
def edgeOfBit (e : BitVec 1) : Edge := if e == 0 then .falling else .rising

/-- The bit of an edge item (R56). -/
def bitOfEdge : Edge → BitVec 1
  | .falling => 0
  | .rising => 1

/-- The row an edge item stands for at the classifier: `BTN_FALL` for 0, `BTN_RISE` for 1. -/
def edgeInstr : Edge → Instr
  | .falling => .btnFall
  | .rising => .btnRise

/-! ## Ports -/

/-- The row a configuration write stands for (R57). -/
def cfgInstr (sel : BitVec 2) (value : BitVec 32) : Instr :=
  if sel == 0 then .cfgMode value
  else if sel == 1 then .cfgMask value
  else .cfgRsvd sel value

/-- A request that is made when its strobe is set. -/
def askIf (c : Bool) (i : Instr) : List Instr := if c then [i] else []

/-- The operations that the input ports of one cycle ask for. `rst` overrides every other input and `dec_clear` the decoder's
pop (R147). A pop asked for by `dec_run` or `btn_run` happens only while its queue is not empty (R144, R145). -/
def PortsIn.requests (p : PortsIn) : List Instr :=
  if p.rst then [.rst]
  else List.flatten
    [askIf p.serPush (.serPush p.serData), askIf p.btnPush (.btnPush (edgeOfBit p.btnEdge)),
     askIf p.decClear .decClear, askIf (!p.decClear && p.decRun) .serPop, askIf p.tick .tick, askIf p.btnRun .btnPop,
     askIf p.outPop .outPop, askIf p.cfgWe (cfgInstr p.cfgSel p.cfgValue)]

/-! ## OUT words -/

/-- The press kind codes (R58). -/
def pressCode : PressKind → BitVec 2
  | .short => 0
  | .long => 1
  | .veryLong => 2

/-- The OUT word of `MidiCommand(status, data0, data1)`: tag 0 (R58). -/
def midiWord (status d0 d1 : Byte) : OutWord := (0#1 : BitVec 1) ++ status ++ d0 ++ d1

/-- The OUT word of `ButtonEvent(id, kind)`: tag 1, 0x00 in bits 15..8, the kind in bits 1..0 (R58). -/
def buttonWord (id : Byte) (kind : PressKind) : OutWord :=
  (1#1 : BitVec 1) ++ id ++ (0#8 : BitVec 8) ++ (0#6 : BitVec 6) ++ pressCode kind

/-- The id byte of this instance's ButtonEvents: `BTN_ID` (R7). -/
def buttonId (cfg : Config) : Byte := BitVec.ofNat 8 cfg.btnId

/-- The push that an OUT word came from (R58, R127). -/
def decodeOutWord (cfg : Config) (w : OutWord) : Except DecodeError Instr :=
  let status := w.extractLsb' 16 8
  let d0 := w.extractLsb' 8 8
  let d1 := w.extractLsb' 0 8
  if w.getLsbD 24 then
    if status != buttonId cfg then .error .foreignButtonId
    else if w.extractLsb' 2 14 != 0 then .error .nonzeroReserved
    else
      match (w.extractLsb' 0 2).toNat with
      | 0 => .ok (.outPushBtn .short)
      | 1 => .ok (.outPushBtn .long)
      | 2 => .ok (.outPushBtn .veryLong)
      | _ => .error .reservedPressKind
  else if !passedStatus status then .error .notPassedStatus
  else if !(dataByte d0 && dataByte d1) then .error .notDataByte
  else .ok (.outPushMidi status d0 d1)

/-! ## The decoder and the encoder -/

/-- The instruction a code stands for in an instance with parameters `cfg`. Total, rejecting by name. -/
def decode (cfg : Config) : Code → Except DecodeError Instr
  | .midiByte b => .ok (decodeByte b)
  | .btnEdge e => .ok (edgeInstr (edgeOfBit e))
  | .ports p =>
    match p.requests with
    | [i] => .ok i
    | [] => .error .noRequest
    | _ => .error .severalRequests
  | .outWord w => decodeOutWord cfg w

/-- The code of an instruction, from the same tables (R54 to R58 and each row's encoding). -/
def encode (cfg : Config) : Instr → Code
  | .data v => .midiByte (dataByteOf v)
  | .noteOff ch => .midiByte (statusByte 0x8 ch)
  | .noteOn ch => .midiByte (statusByte 0x9 ch)
  | .polyPressure ch => .midiByte (statusByte 0xA ch)
  | .controlChange ch => .midiByte (statusByte 0xB ch)
  | .programChange ch => .midiByte (statusByte 0xC ch)
  | .channelPressure ch => .midiByte (statusByte 0xD ch)
  | .pitchBend ch => .midiByte (statusByte 0xE ch)
  | .sysexStart => .midiByte 0xF0
  | .timeCode => .midiByte 0xF1
  | .songPosition => .midiByte 0xF2
  | .songSelect => .midiByte 0xF3
  | .unrecF4 => .midiByte 0xF4
  | .unrecF5 => .midiByte 0xF5
  | .unrecF6 => .midiByte 0xF6
  | .sysexEnd => .midiByte 0xF7
  | .rtF8 => .midiByte 0xF8
  | .unrecF9 => .midiByte 0xF9
  | .rtFA => .midiByte 0xFA
  | .rtFB => .midiByte 0xFB
  | .rtFC => .midiByte 0xFC
  | .unrecFD => .midiByte 0xFD
  | .unrecFE => .midiByte 0xFE
  | .rtFF => .midiByte 0xFF
  | .btnFall => .btnEdge 0
  | .btnRise => .btnEdge 1
  | .tick => .ports { PortsIn.idle with tick := true }
  | .cfgMode v => .ports { PortsIn.idle with cfgWe := true, cfgSel := 0, cfgValue := v }
  | .cfgMask v => .ports { PortsIn.idle with cfgWe := true, cfgSel := 1, cfgValue := v }
  | .cfgRsvd sel v => .ports { PortsIn.idle with cfgWe := true, cfgSel := sel, cfgValue := v }
  | .serPush b => .ports { PortsIn.idle with serPush := true, serData := b }
  | .btnPush e => .ports { PortsIn.idle with btnPush := true, btnEdge := bitOfEdge e }
  | .outPop => .ports { PortsIn.idle with outPop := true }
  | .decClear => .ports { PortsIn.idle with decClear := true }
  | .rst => .ports { PortsIn.idle with rst := true }
  | .serPop => .ports { PortsIn.idle with decRun := true }
  | .btnPop => .ports { PortsIn.idle with btnRun := true }
  | .outPushMidi s d0 d1 => .outWord (midiWord s d0 d1)
  | .outPushBtn k => .outWord (buttonWord (buttonId cfg) k)

/-! ## The opcode table's rows -/

/-- A row's mnemonic, as spec/opcode_table.json spells it. -/
def Instr.mnemonic : Instr → String
  | .data _ => "DATA"
  | .noteOff _ => "NOTE_OFF"
  | .noteOn _ => "NOTE_ON"
  | .polyPressure _ => "POLY_PRESSURE"
  | .controlChange _ => "CONTROL_CHANGE"
  | .programChange _ => "PROGRAM_CHANGE"
  | .channelPressure _ => "CHANNEL_PRESSURE"
  | .pitchBend _ => "PITCH_BEND"
  | .sysexStart => "SYSEX_START"
  | .timeCode => "TIME_CODE"
  | .songPosition => "SONG_POSITION"
  | .songSelect => "SONG_SELECT"
  | .unrecF4 => "UNREC_F4"
  | .unrecF5 => "UNREC_F5"
  | .unrecF6 => "UNREC_F6"
  | .sysexEnd => "SYSEX_END"
  | .rtF8 => "RT_F8"
  | .unrecF9 => "UNREC_F9"
  | .rtFA => "RT_FA"
  | .rtFB => "RT_FB"
  | .rtFC => "RT_FC"
  | .unrecFD => "UNREC_FD"
  | .unrecFE => "UNREC_FE"
  | .rtFF => "RT_FF"
  | .btnFall => "BTN_FALL"
  | .btnRise => "BTN_RISE"
  | .tick => "TICK"
  | .cfgMode _ => "CFG_MODE"
  | .cfgMask _ => "CFG_MASK"
  | .cfgRsvd _ _ => "CFG_RSVD"
  | .serPush _ => "SER_PUSH"
  | .btnPush _ => "BTN_PUSH"
  | .outPop => "OUT_POP"
  | .decClear => "DEC_CLEAR"
  | .rst => "RST"
  | .serPop => "SER_POP"
  | .btnPop => "BTN_POP"
  | .outPushMidi _ _ _ => "OUT_PUSH_MIDI"
  | .outPushBtn _ => "OUT_PUSH_BTN"

/-- One `midi_byte` row of the table: a byte `b` is the row's iff `b &&& mask = pattern`. -/
structure ByteRow where
  mnemonic : String
  mask     : Byte
  pattern  : Byte
  deriving DecidableEq, Repr

/-- The 24 `midi_byte` rows of spec/opcode_table.json with their mask and match. -/
def byteRows : List ByteRow :=
  [⟨"DATA", 0x80, 0x00⟩, ⟨"NOTE_OFF", 0xF0, 0x80⟩, ⟨"NOTE_ON", 0xF0, 0x90⟩, ⟨"POLY_PRESSURE", 0xF0, 0xA0⟩,
   ⟨"CONTROL_CHANGE", 0xF0, 0xB0⟩, ⟨"PROGRAM_CHANGE", 0xF0, 0xC0⟩, ⟨"CHANNEL_PRESSURE", 0xF0, 0xD0⟩,
   ⟨"PITCH_BEND", 0xF0, 0xE0⟩]
  ++ [⟨"SYSEX_START", 0xFF, 0xF0⟩, ⟨"TIME_CODE", 0xFF, 0xF1⟩, ⟨"SONG_POSITION", 0xFF, 0xF2⟩, ⟨"SONG_SELECT", 0xFF, 0xF3⟩,
   ⟨"UNREC_F4", 0xFF, 0xF4⟩, ⟨"UNREC_F5", 0xFF, 0xF5⟩, ⟨"UNREC_F6", 0xFF, 0xF6⟩, ⟨"SYSEX_END", 0xFF, 0xF7⟩]
  ++ [⟨"RT_F8", 0xFF, 0xF8⟩, ⟨"UNREC_F9", 0xFF, 0xF9⟩, ⟨"RT_FA", 0xFF, 0xFA⟩, ⟨"RT_FB", 0xFF, 0xFB⟩,
   ⟨"RT_FC", 0xFF, 0xFC⟩, ⟨"UNREC_FD", 0xFF, 0xFD⟩, ⟨"UNREC_FE", 0xFF, 0xFE⟩, ⟨"RT_FF", 0xFF, 0xFF⟩]

/-- What the decoder reads from a table row's bits. Only the `midi_byte` rows have bits in the table: 8 of them. -/
def decodeTableWord (nbits w : Nat) : Option Instr :=
  if nbits == 8 then
    match decode Config.default (.midiByte (BitVec.ofNat 8 w)) with
    | .ok i => some i
    | .error _ => none
  else none

end Sys2Proof
end

