-- ==== Sys2Proof/Machine/State.lean ====
section
/-! DEFINITION. The state of the block (spec/10_state.md R14), the values its outputs present, and the reasons a step can
stop. Plain data throughout. -/

namespace Sys2Proof.Machine

/-- The decoder states that `DS` holds at a cycle boundary (R17, R18). `DispatchStatus` is never latched and is a `Phase`. -/
inductive DecState where
  | awaitStatus
  | awaitFirstData
  | awaitSecondData
  | awaitSysEx
  | awaitSingleData
  deriving DecidableEq, Repr

/-- The dispatch phase inside one feed (R68): a latched state or `DispatchStatus`. -/
inductive Phase where
  | latched (ds : DecState)
  | dispatchStatus
  deriving DecidableEq, Repr

/-- The classifier states (R26). -/
inductive ButtonState where
  /-- 0: no press is being timed. -/
  | idle
  /-- 1: a press is being timed; `BREM` holds the ticks left. -/
  | timing
  deriving DecidableEq, Repr

/-- The decoder's events (R67). -/
inductive DecodedEvent where
  | realTime (b : Byte)
  | oneData (status data : Byte)
  | twoData (status d0 d1 : Byte)
  | sysEx (bytes : List Byte) (len : Nat)
  deriving DecidableEq, Repr

/-- The error codes a step can raise (R151), each recovered in place in its cycle. `Ok` (0) is the absence of one (R157);
`ResourceInitFailure` (5) is a refusal (R158). -/
inductive ErrorCode where
  /-- Code 1: a byte is dispatched again in `DispatchStatus` (R155). -/
  | reprocess
  /-- Code 2: the SysEx accumulator is full (R152). -/
  | sysExOverflow
  /-- Code 3: a status byte outside the table (R154). -/
  | unrecognizedStatus (b : Byte)
  /-- Code 4: a push found its FIFO full (R156). -/
  | channelFull
  deriving DecidableEq, Repr

/-- The block's wires within one cycle. They are no architectural state: every cycle begins with them quiet. -/
structure Signals where
  /-- The byte the decoder takes from `SERQ` this cycle (R120). -/
  b : Option Byte
  /-- The edge the classifier takes from `BTNQ` this cycle (R122). -/
  e : Option Edge
  /-- `ev`: the DecodedEvent of this cycle's feed (R67). -/
  ev : Option DecodedEvent
  /-- `ovf`: the SysEx overflow signal (R59, R67). -/
  ovf : Bool
  /-- `bev`: the press kind the classifier emits (R105). -/
  bev : Option PressKind
  /-- The error codes raised this cycle (R10, R151), in the order the model meets them. No port carries one. -/
  codes : List ErrorCode
  deriving DecidableEq, Repr

/-- The wires at the start of a cycle. -/
def Signals.quiet : Signals where
  b := none
  e := none
  ev := none
  ovf := false
  bev := none
  codes := []

/-- The output ports (R53) of one cycle. -/
structure Outputs where
  outValid     : Bool
  outData      : OutWord
  decEvtValid  : Bool
  decEvtKind   : BitVec 3
  decEvtStatus : Byte
  decEvtD0     : Byte
  decEvtD1     : Byte
  sxLen        : Nat
  /-- `sx_buf`, byte 0 first: `SYSEX_CAP` bytes. -/
  sxBuf        : List Byte
  sysexOvf     : Bool
  btnEvtValid  : Bool
  btnEvtKind   : BitVec 2
  cfgMaskQ     : BitVec 16
  cfgModeQ     : BitVec 2
  deriving DecidableEq, Repr

/-- The SysEx accumulator `BUF` (R22, R41): the entries written so far as (index, byte) pairs, indices strictly rising. An
index that is not listed has not been written since power-on and holds no value (R42; notes/assumptions/3.md). -/
abbrev Memory := List Host.Cell

/-- The state. `ds` to `cmode` are the registers and queues of R14. The rest is the model's own: the instance's parameters,
the input ports of the cycles to come, the wires and the output ports of the cycle last run, and the counter that the free
values are taken at (notes/assumptions/1.md, 2.md, 4.md, 5.md). -/
structure State where
  /-- `DS`, decoder state (R17). -/
  ds : DecState
  /-- `RS`, running status (R19). -/
  rs : Byte
  /-- `D0`, first data byte (R20). -/
  d0 : Byte
  /-- `D1`, second data byte (R21). -/
  d1 : Byte
  /-- `IDX`, number of bytes in the SysEx accumulator (R22). -/
  idx : Nat
  /-- `BUF`, SysEx accumulator (R22). -/
  buf : Memory
  /-- `BS`, classifier state (R26). -/
  bs : ButtonState
  /-- `BREM`, ticks left before expiry (R27). -/
  brem : Nat
  /-- `SERQ`, oldest first (R30). -/
  serq : List Byte
  /-- `BTNQ`, oldest first (R31). -/
  btnq : List Edge
  /-- `OUTQ`, oldest first (R32). -/
  outq : List OutWord
  /-- `CMASK`, channel mask (R34). -/
  cmask : BitVec 16
  /-- `CMODE`, filter mode (R35). -/
  cmode : BitVec 2
  /-- The parameters of this instance (R7). -/
  cfg : Config
  /-- The input ports of the coming cycles, the next one first; a cycle beyond the list has no input (R66, R143). -/
  inputs : List PortsIn
  /-- The wires of the cycle last run. -/
  sig : Signals
  /-- The output ports of the cycle last run. -/
  out : Outputs
  /-- The number of the coming cycle, at which its free output bits are taken. -/
  freeIdx : Nat
  deriving DecidableEq, Repr

/-- Why the machine stops with a fault. All three are unreachable from reset. -/
inductive Fault where
  /-- Raised by `step` at a cycle boundary whose state breaks R23, R28 or a FIFO's depth (R153). Safe. -/
  | unreachableState
  /-- Raised by a read of a `BUF` entry that nothing has written (R42). Safe: no reachable run reads one (R24). -/
  | bufUnwritten
  /-- Raised by an access to `BUF` at an index of `SYSEX_CAP` or more, which does not exist (R23, R41). Safe. -/
  | bufOutOfRange
  deriving DecidableEq, Repr

/-- Why there is no step. -/
inductive Refusal where
  /-- An instruction without a meaning yet; raised by `exec` only. Safe. -/
  | notModelled (mnemonic : String)
  /-- Raised by `step` for a parameter set outside R7's ranges: such an instance is refused and takes no step (R158). Safe. -/
  | resourceInitFailure
  deriving DecidableEq, Repr

/-- The outcome of a step of this machine. -/
abbrev Result := Host.Outcome State Fault Refusal

/-- The output ports before the first cycle. DESIGN CHOICE (notes/assumptions/4.md): no cycle has run, every bit is 0. -/
def Outputs.none : Outputs where
  outValid := false
  outData := 0
  decEvtValid := false
  decEvtKind := 0
  decEvtStatus := 0
  decEvtD0 := 0
  decEvtD1 := 0
  sxLen := 0
  sxBuf := []
  sysexOvf := false
  btnEvtValid := false
  btnEvtKind := 0
  cfgMaskQ := 0
  cfgModeQ := 0

/-- The power-on state of an instance with parameters `cfg` (R40, R170, R171). -/
def State.powerOn (cfg : Config) : State where
  ds := .awaitStatus
  rs := 0x00
  d0 := 0x00
  d1 := 0x00
  idx := 0
  buf := []
  bs := .idle
  brem := 0
  serq := []
  btnq := []
  outq := []
  cmask := BitVec.ofNat 16 cfg.maskReset
  cmode := BitVec.ofNat 2 cfg.modeReset
  cfg := cfg
  inputs := []
  sig := Signals.quiet
  out := Outputs.none
  freeIdx := 0

/-- The machine right after reset: the power-on state (R171) of the instance the model shows. -/
def State.reset : State := State.powerOn Config.default

end Sys2Proof.Machine
end

