-- ==== Sys2Proof/Machine/Ops.lean ====
section
/-! DEFINITION. The shared operations: chaining outcomes, raising an error code, the accumulator's bytes (spec/20_memory.md
R41), the FIFO law (spec/42_fifo.md R116), and the checks that a step makes at a cycle boundary (R153, R158).

There is no trap entry and no trap return in this block (R159, R160): `State.raise` is what every error shares, and its
recovery is part of the meaning that raises it. -/

namespace Sys2Proof.Machine

/-- Run `f` on the next state; a fault or a refusal stays. -/
def andThen (r : Result) (f : State → Result) : Result :=
  match r with
  | .next s => f s
  | .fault x => .fault x
  | .refused x => .refused x

/-! ## Error codes and events -/

/-- `raise <Code>(info)` (R10): the code is recorded on this cycle's wires. It transfers no control (R159). -/
def State.raise (c : ErrorCode) (s : State) : State :=
  { s with sig := { s.sig with codes := s.sig.codes ++ [c] } }

/-- `ev := e` (R67). -/
def State.emitEvent (e : DecodedEvent) (s : State) : State :=
  { s with sig := { s.sig with ev := some e } }

/-- `ovf := 1` (R59, R76). -/
def State.emitOverflow (s : State) : State :=
  { s with sig := { s.sig with ovf := true } }

/-- `bev := k` (R105). -/
def State.emitPress (k : PressKind) (s : State) : State :=
  { s with sig := { s.sig with bev := some k } }

/-! ## The accumulator's bytes -/

/-- The byte at index `i`, if one was written. -/
def Memory.read (m : Memory) (i : Nat) : Option Byte :=
  match m with
  | [] => none
  | (a, v) :: rest => if a == i then some v else Memory.read rest i

/-- Write one byte, keeping the indices strictly rising. -/
def Memory.write (m : Memory) (i : Nat) (v : Byte) : Memory :=
  match m with
  | [] => [(i, v)]
  | (a, w) :: rest =>
    if i < a then (i, v) :: (a, w) :: rest
    else if i = a then (i, v) :: rest
    else (a, w) :: Memory.write rest i v

/-- The canonical form: indices strictly rising. (An unlisted index holds no value, so no entry can equal one.) -/
def Memory.wf (m : Memory) : Bool :=
  match m with
  | [] => true
  | [_] => true
  | x :: y :: rest => decide (x.1 < y.1) && Memory.wf (y :: rest)

/-- Every listed index exists: it is below `SYSEX_CAP` (R23). -/
def Memory.within (cap : Nat) (m : Memory) : Bool := m.all fun c => decide (c.1 < cap)

/-- `MemRead(BUF, i, 1)` (R41): requires `i < SYSEX_CAP`; an entry not written since power-on holds no value (R42). -/
def State.memRead (s : State) (i : Nat) : Except Fault Byte :=
  if i < s.cfg.sysexCap then
    match Memory.read s.buf i with
    | some v => .ok v
    | none => .error .bufUnwritten
  else .error .bufOutOfRange

/-- `MemWrite(BUF, i, 1, v)` (R41): requires `i < SYSEX_CAP`. -/
def State.memWrite (s : State) (i : Nat) (v : Byte) : Except Fault State :=
  if i < s.cfg.sysexCap then .ok { s with buf := Memory.write s.buf i v }
  else .error .bufOutOfRange

/-- `[MemRead(BUF, k, 1) for k in 0..n-1]` (R68), the first read that fails being the fault. -/
def State.memReadPrefix (s : State) : Nat → Except Fault (List Byte)
  | 0 => .ok []
  | n + 1 =>
    match State.memReadPrefix s n with
    | .error f => .error f
    | .ok bs =>
      match s.memRead n with
      | .error f => .error f
      | .ok v => .ok (bs ++ [v])

/-! ## The FIFO law -/

/-- Whether a FIFO holding `q` accepts a push (R116). -/
def fifoRoom {α : Type} (depth : Nat) (q : List α) : Bool := decide (q.length < depth)

/-- Push requests in order on a queue whose occupancy at the start of the cycle is `n0`: the items accepted (R116). -/
def fifoAccept {α : Type} (depth n0 : Nat) : List α → List α
  | [] => []
  | p :: ps => if n0 < depth then p :: fifoAccept depth (n0 + 1) ps else fifoAccept depth n0 ps

/-- `fifo_cycle(Q, pop_req, [p1..pm])` (R116): the queue at the end of a cycle. Room and emptiness are judged on the start
of the cycle. -/
def fifoCycle {α : Type} (depth : Nat) (q : List α) (popReq : Bool) (ps : List α) : List α :=
  (if popReq && !q.isEmpty then q.tail else q) ++ fifoAccept depth q.length ps

/-! ## What a step checks at a cycle boundary -/

/-- The legal parameter sets (R7, R158). -/
def legalConfig (c : Config) : Bool :=
  decide (1 ≤ c.serDepth) && decide (1 ≤ c.btnDepth) && decide (1 ≤ c.outDepth) && decide (1 ≤ c.sysexCap)
  && decide (1 ≤ c.vlongTicks) && decide (c.longTicks ≤ c.vlongTicks) && decide (c.modCcId ≤ 127)
  && decide (c.btnId ≤ 255) && decide (c.maskReset ≤ 0xFFFF) && decide (c.modeReset ≤ 3)

/-- `BS`/`BREM` agree (R28). -/
def timerOk (s : State) : Bool :=
  match s.bs with
  | .timing => decide (1 ≤ s.brem) && decide (s.brem ≤ s.cfg.vlongTicks)
  | .idle => decide (s.brem = 0)

/-- What R153 asks of a cycle boundary: `BS`/`BREM` agree, `IDX <= SYSEX_CAP`, and no FIFO is above its depth. (`DS` is one
of the five latched states by its type, R18.) -/
def boundaryOk (s : State) : Bool :=
  timerOk s && decide (s.idx ≤ s.cfg.sysexCap) && decide (s.serq.length ≤ s.cfg.serDepth)
  && decide (s.btnq.length ≤ s.cfg.btnDepth) && decide (s.outq.length ≤ s.cfg.outDepth)

end Sys2Proof.Machine
end

