-- ==== Sys2Proof/Machine/Operands.lean ====
section
/-! DEFINITION. Operand extraction (spec/30_encoding.md R54, R62), the byte sets of the rules (spec/00_scope.md R12), and the
numeric codes of the state and error enumerations (R17, R26, R151). -/

namespace Sys2Proof.Machine

/-- `kind(s) = s[7:4]` (R62). -/
def kindOf (b : Byte) : BitVec 4 := b.extractLsb' 4 4

/-- `channel(s) = s[3:0]` (R62). -/
def channelOf (b : Byte) : BitVec 4 := b.extractLsb' 0 4

/-- `DATA` (R12): bit 7 is clear. -/
def isData (b : Byte) : Bool := !b.getLsbD 7

/-- `RT` (R12): the real-time bytes. -/
def isRealTime (b : Byte) : Bool := b == 0xF8 || b == 0xFA || b == 0xFB || b == 0xFC || b == 0xFF

/-- `ONE` (R12): the statuses followed by one data byte. -/
def isOne (b : Byte) : Bool := kindOf b == 0xC || kindOf b == 0xD || b == 0xF1 || b == 0xF3

/-- `TWO` (R12): the statuses followed by two data bytes. -/
def isTwo (b : Byte) : Bool :=
  kindOf b == 0x8 || kindOf b == 0x9 || kindOf b == 0xA || kindOf b == 0xB || kindOf b == 0xE || b == 0xF2

/-- `SXS` (R12): SysEx start. -/
def isSysExStart (b : Byte) : Bool := b == 0xF0

/-- `UNREC` (R12): the status bytes in none of the other sets. -/
def isUnrec (b : Byte) : Bool := !isData b && !isRealTime b && !isOne b && !isTwo b && !isSysExStart b

/-- A channel status: 0x80..0xEF (R54). -/
def isChannelStatus (b : Byte) : Bool := decide (0x80 ≤ b.toNat) && decide (b.toNat ≤ 0xEF)

/-- The 3-bit code of `DS`, dispatch phase included (R17). -/
def phaseCode : Phase → BitVec 3
  | .latched .awaitStatus => 0
  | .latched .awaitFirstData => 1
  | .latched .awaitSecondData => 2
  | .latched .awaitSysEx => 3
  | .latched .awaitSingleData => 4
  | .dispatchStatus => 5

/-- The 1-bit code of `BS` (R26). -/
def buttonCode : ButtonState → BitVec 1
  | .idle => 0
  | .timing => 1

/-- The numeric error codes (R151). -/
def errorNumber : ErrorCode → Nat
  | .reprocess => 1
  | .sysExOverflow => 2
  | .unrecognizedStatus _ => 3
  | .channelFull => 4

/-- `IDX_W` and `REM_W` (R8): the bits that hold 0..n, `ceil(log2(n + 1))`. -/
def widthFor (n : Nat) : Nat := if n = 0 then 0 else n.log2 + 1

end Sys2Proof.Machine
end

