-- ==== Sys2Proof/Machine/Flags.lean ====
section
/-! DEFINITION. The block's flags: functions of the state, never stored (spec/10_state.md R37). -/

namespace Sys2Proof.Machine

/-- `empty(Q) = (count(Q) = 0)` (R37). -/
def emptyQ {α : Type} (q : List α) : Bool := q.isEmpty

/-- `full(Q) = (count(Q) = DEPTH(Q))` (R37). -/
def fullQ {α : Type} (depth : Nat) (q : List α) : Bool := decide (q.length = depth)

/-- `out_valid = not empty(OUTQ)` (R37, R125). -/
def outValid (s : State) : Bool := !emptyQ s.outq

/-- The decoder takes a byte this cycle (R144). -/
def decoderTakes (p : PortsIn) (s : State) : Bool := !p.rst && !p.decClear && p.decRun && !emptyQ s.serq

/-- The classifier takes an edge this cycle (R145). -/
def classifierTakes (p : PortsIn) (s : State) : Bool := !p.rst && p.btnRun && !emptyQ s.btnq

/-- The output consumer takes the head of `OUTQ` this cycle (R125). -/
def consumerTakes (p : PortsIn) (s : State) : Bool := !p.rst && p.outPop && outValid s

/-- A run is quiescent at a cycle boundary (R150). -/
def quiescent (s : State) : Bool := emptyQ s.serq && emptyQ s.btnq && decide (s.bs = .idle)

end Sys2Proof.Machine
end

