-- ==== Sys2Proof/Machine/Button.lean ====
section
/-! DEFINITION. The button edge-and-timeout classifier (spec/41_button.md). A cycle applies the tick first and the edge it
takes second (R105); each is a meaning of its own, on the result of the one before. -/

namespace Sys2Proof.Machine

/-- The kind of a release with `rem` ticks left (R109): `Short` iff `rem > VLONG_TICKS - LONG_TICKS`. The difference is of
naturals with `LONG_TICKS <= VLONG_TICKS` (R110). -/
def releaseKind (cfg : Config) (rem : Nat) : PressKind :=
  if rem > cfg.vlongTicks - cfg.longTicks then .short else .long

/-- `TICK` (R108), with expiry (R107): phase 1 of R105. -/
def execTick (s : State) : Result :=
  match s.bs with
  | .idle => .next s
  | .timing =>
    let rem := s.brem - 1
    if rem = 0 then .next { (s.emitPress .veryLong) with bs := .idle, brem := 0 }
    else .next { s with brem := rem }

/-- `BTN_FALL` (R106): start or restart the single-shot timer, whatever the state was. -/
def execBtnFall (s : State) : Result := .next { s with bs := .timing, brem := s.cfg.vlongTicks }

/-- `BTN_RISE` (R109): classify and stop the timer; nothing when no press is being timed. -/
def execBtnRise (s : State) : Result :=
  match s.bs with
  | .idle => .next s
  | .timing => .next { (s.emitPress (releaseKind s.cfg s.brem)) with bs := .idle, brem := 0 }

end Sys2Proof.Machine
end

