-- ==== Sys2Proof/Machine/Decoder.lean ====
section
/-! DEFINITION. The MIDI byte-stream decoder (spec/40_decoder.md): `feed`, and one meaning per byte row of the opcode table. -/

namespace Sys2Proof.Machine

/-- The outcome of one dispatch of a byte (R68): the feed returns, or the byte is dispatched again in another phase. -/
inductive Dispatched where
  | done (s : State)
  | again (ph : Phase) (s : State)
  | stop (f : Fault)
  deriving DecidableEq, Repr

/-- `Reprocess` (R155): on to `DispatchStatus` with the same byte. -/
def reprocess (s : State) : Dispatched := .again .dispatchStatus (s.raise .reprocess)

/-- The `DispatchStatus` arm (R79): running status is the new status byte except on the unrecognised branch. -/
def classifyStatus (b : Byte) (s : State) : State :=
  if isOne b then { s with rs := b, ds := .awaitSingleData }
  else if isTwo b then { s with rs := b, ds := .awaitFirstData }
  else if isSysExStart b then { s with rs := b, idx := 0, ds := .awaitSysEx }
  else { s.raise (.unrecognizedStatus b) with ds := .awaitStatus }

/-- A data byte in `AwaitSysEx` (R76): append, or overflow when the accumulator is full. -/
def sysExData (b : Byte) (s : State) : Dispatched :=
  if s.idx < s.cfg.sysexCap then
    match s.memWrite s.idx b with
    | .ok t => .done { t with idx := s.idx + 1 }
    | .error f => .stop f
  else .done { (s.emitOverflow.raise .sysExOverflow) with idx := 0, ds := .awaitStatus }

/-- A status byte in `AwaitSysEx`: 0xF7 emits the SysEx event (R77), any other aborts it (R78); both are dispatched again. -/
def sysExStatus (b : Byte) (s : State) : Dispatched :=
  if b == 0xF7 then
    match s.memReadPrefix s.idx with
    | .ok bytes => reprocess (s.emitEvent (.sysEx bytes s.idx))
    | .error f => .stop f
  else reprocess s

/-- One dispatch of byte `b` in phase `ph`: the body of R68's loop (R71 to R79). -/
def dispatch (ph : Phase) (b : Byte) (s : State) : Dispatched :=
  match ph with
  | .latched .awaitStatus => if isData b then .done s else reprocess s
  | .latched .awaitFirstData =>
    if isData b then .done { s with d0 := b, ds := .awaitSecondData } else reprocess s
  | .latched .awaitSecondData =>
    if isData b then .done { (s.emitEvent (.twoData s.rs s.d0 b)) with d1 := b, ds := .awaitFirstData }
    else reprocess s
  | .latched .awaitSingleData => if isData b then .done (s.emitEvent (.oneData s.rs b)) else reprocess s
  | .latched .awaitSysEx => if isData b then sysExData b s else sysExStatus b s
  | .dispatchStatus => .done (classifyStatus b s)

/-- R68's bounded loop, at most `n` dispatches: explicit, not recursion in the byte (R70). -/
def dispatchLoop : Nat → Phase → Byte → State → Result
  | 0, _, _, s => .next s
  | n + 1, ph, b, s =>
    match dispatch ph b s with
    | .done t => .next t
    | .again ph' t => dispatchLoop n ph' b t
    | .stop f => .fault f

/-- `ev := none; ovf := 0`: the wires at the start of a feed (R68). -/
def beginFeed (s : State) : State := { s with sig := { s.sig with ev := none, ovf := false } }

/-- `feed(b)` (R68): real-time bytes are reported before any dispatch and write nothing (R69); any other byte is dispatched
from the latched state, at most twice. -/
def feed (b : Byte) (s : State) : Result :=
  if isRealTime b then .next ((beginFeed s).emitEvent (.realTime b))
  else dispatchLoop 2 (.latched s.ds) b (beginFeed s)

/-! ## One meaning per byte row -/

/-- `DATA` (R80). -/
def execData (value : BitVec 7) (s : State) : Result := feed (dataByteOf value) s

/-- `NOTE_OFF` (R81). -/
def execNoteOff (ch : BitVec 4) (s : State) : Result := feed (statusByte 0x8 ch) s

/-- `NOTE_ON` (R82). -/
def execNoteOn (ch : BitVec 4) (s : State) : Result := feed (statusByte 0x9 ch) s

/-- `POLY_PRESSURE` (R83). -/
def execPolyPressure (ch : BitVec 4) (s : State) : Result := feed (statusByte 0xA ch) s

/-- `CONTROL_CHANGE` (R84). -/
def execControlChange (ch : BitVec 4) (s : State) : Result := feed (statusByte 0xB ch) s

/-- `PROGRAM_CHANGE` (R85). -/
def execProgramChange (ch : BitVec 4) (s : State) : Result := feed (statusByte 0xC ch) s

/-- `CHANNEL_PRESSURE` (R86). -/
def execChannelPressure (ch : BitVec 4) (s : State) : Result := feed (statusByte 0xD ch) s

/-- `PITCH_BEND` (R87). -/
def execPitchBend (ch : BitVec 4) (s : State) : Result := feed (statusByte 0xE ch) s

/-- `SYSEX_START` (R88). -/
def execSysexStart (s : State) : Result := feed 0xF0 s

/-- `TIME_CODE` (R89). -/
def execTimeCode (s : State) : Result := feed 0xF1 s

/-- `SONG_POSITION` (R90). -/
def execSongPosition (s : State) : Result := feed 0xF2 s

/-- `SONG_SELECT` (R91). -/
def execSongSelect (s : State) : Result := feed 0xF3 s

/-- `UNREC_F4` (R92). -/
def execUnrecF4 (s : State) : Result := feed 0xF4 s

/-- `UNREC_F5` (R94). -/
def execUnrecF5 (s : State) : Result := feed 0xF5 s

/-- `UNREC_F6` (R95). -/
def execUnrecF6 (s : State) : Result := feed 0xF6 s

/-- `SYSEX_END` (R93). -/
def execSysexEnd (s : State) : Result := feed 0xF7 s

/-- `RT_F8` (R99). -/
def execRtF8 (s : State) : Result := feed 0xF8 s

/-- `UNREC_F9` (R96). -/
def execUnrecF9 (s : State) : Result := feed 0xF9 s

/-- `RT_FA` (R100). -/
def execRtFA (s : State) : Result := feed 0xFA s

/-- `RT_FB` (R101). -/
def execRtFB (s : State) : Result := feed 0xFB s

/-- `RT_FC` (R102). -/
def execRtFC (s : State) : Result := feed 0xFC s

/-- `UNREC_FD` (R97). -/
def execUnrecFD (s : State) : Result := feed 0xFD s

/-- `UNREC_FE` (R98). -/
def execUnrecFE (s : State) : Result := feed 0xFE s

/-- `RT_FF` (R103): reported like any real-time byte; it resets nothing. -/
def execRtFF (s : State) : Result := feed 0xFF s

end Sys2Proof.Machine
end

