-- ==== Sys2Proof/Machine/Fifo.lean ====
section
/-! DEFINITION. The queue operations (spec/42_fifo.md), one meaning per row. Each judges room or emptiness on the queue as it
finds it. The cycle (Machine/Cycle.lean) makes the pushes before the pops, and pops only from a queue that was not empty when
the cycle began, which is R116's judging on the start of the cycle. -/

namespace Sys2Proof.Machine

/-- `SER_PUSH` (R119): accepted while `count(SERQ) < SER_DEPTH`, else dropped (R117). -/
def execSerPush (b : Byte) (s : State) : Result :=
  if fifoRoom s.cfg.serDepth s.serq then .next { s with serq := s.serq ++ [b] }
  else .next (s.raise .channelFull)

/-- `BTN_PUSH` (R121). -/
def execBtnPush (e : Edge) (s : State) : Result :=
  if fifoRoom s.cfg.btnDepth s.btnq then .next { s with btnq := s.btnq ++ [e] }
  else .next (s.raise .channelFull)

/-- A push request to `OUTQ` (R116, R126). -/
def pushOut (w : OutWord) (s : State) : Result :=
  if fifoRoom s.cfg.outDepth s.outq then .next { s with outq := s.outq ++ [w] }
  else .next (s.raise .channelFull)

/-- `OUT_PUSH_MIDI` (R123). -/
def execOutPushMidi (status d0 d1 : Byte) (s : State) : Result := pushOut (midiWord status d0 d1) s

/-- `OUT_PUSH_BTN` (R124): `ButtonEvent(BTN_ID, kind)`. -/
def execOutPushBtn (kind : PressKind) (s : State) : Result := pushOut (buttonWord (buttonId s.cfg) kind) s

/-- `SER_POP` (R120): the head of `SERQ` is the decoder's byte; an empty queue gives nothing (R118). -/
def execSerPop (s : State) : Result :=
  match s.serq with
  | [] => .next s
  | b :: q => .next { s with serq := q, sig := { s.sig with b := some b } }

/-- `BTN_POP` (R122): the head of `BTNQ` is the classifier's edge. -/
def execBtnPop (s : State) : Result :=
  match s.btnq with
  | [] => .next s
  | e :: q => .next { s with btnq := q, sig := { s.sig with e := some e } }

/-- `OUT_POP` (R125): the consumer takes the head of `OUTQ`; no effect on an empty queue. -/
def execOutPop (s : State) : Result :=
  match s.outq with
  | [] => .next s
  | _ :: q => .next { s with outq := q }

end Sys2Proof.Machine
end

