-- ==== Sys2Proof/Machine/FilterConfig.lean ====
section
/-! DEFINITION. The channel filter and the configuration writes (spec/43_filter_config.md). -/

namespace Sys2Proof.Machine

/-- The kind gate (R130), after the channel test. -/
def kindPasses (modCcId : Nat) (status d0 : Byte) : Bool :=
  kindOf status == 0x8 || kindOf status == 0x9 || kindOf status == 0xE
  || (kindOf status == 0xB && decide (d0.toNat = modCcId))

/-- `filter(ev)` (R128): the MidiCommand `(status, data0, data1)` of this cycle, unchanged (R132), or none. It does not read
`CMODE` (R133, R134). -/
def filterEvent (mask : BitVec 16) (modCcId : Nat) (ev : Option DecodedEvent) : Option (Byte × Byte × Byte) :=
  match ev with
  | some (.twoData status d0 d1) =>
    if isChannelStatus status && mask.getLsbD (channelOf status).toNat && kindPasses modCcId status d0 then
      some (status, d0, d1)
    else none
  | some (.realTime _) | some (.oneData _ _) | some (.sysEx _ _) | none => none

/-- `CFG_MODE` (R137): out of range it is ignored, not truncated (R140). -/
def execCfgMode (value : BitVec 32) (s : State) : Result :=
  if value.toNat ≤ 3 then .next { s with cmode := value.extractLsb' 0 2 } else .next s

/-- `CFG_MASK` (R136): out of range it is ignored, not truncated (R140). -/
def execCfgMask (value : BitVec 32) (s : State) : Result :=
  if value.toNat ≤ 0xFFFF then .next { s with cmask := value.extractLsb' 0 16 } else .next s

/-- `CFG_RSVD` (R139): ignored. -/
def execCfgRsvd (_sel : BitVec 2) (_value : BitVec 32) (s : State) : Result := .next s

end Sys2Proof.Machine
end

