-- ==== Sys2Proof/Machine/Reset.lean ====
section
/-! DEFINITION. Block reset and decoder clear (spec/70_reset_and_hazards.md). -/

namespace Sys2Proof.Machine

/-- The decoder's registers at their reset values; `BUF` is unchanged (R170, R172). -/
def clearDecoder (s : State) : State :=
  { s with ds := .awaitStatus, rs := 0x00, d0 := 0x00, d1 := 0x00, idx := 0 }

/-- `RST` (R170): every register and queue at its reset value, `BUF` unchanged. -/
def execRst (s : State) : Result :=
  .next { (clearDecoder s) with
    bs := .idle
    brem := 0
    serq := []
    btnq := []
    outq := []
    cmask := BitVec.ofNat 16 s.cfg.maskReset
    cmode := BitVec.ofNat 2 s.cfg.modeReset }

/-- `DEC_CLEAR` (R172): the decoder's registers only; `SERQ` keeps its bytes. -/
def execDecClear (s : State) : Result := .next (clearDecoder s)

end Sys2Proof.Machine
end

