-- ==== Sys2Proof/Machine/Dispatch.lean ====
section
/-! DEFINITION. The dispatch of an instruction to its meaning: one arm per constructor. -/

namespace Sys2Proof.Machine

def exec (i : Instr) (s : State) : Host.Outcome State Fault Refusal :=
  match i with
  | .data value => Sys2Proof.Machine.execData value s
  | .noteOff ch => Sys2Proof.Machine.execNoteOff ch s
  | .noteOn ch => Sys2Proof.Machine.execNoteOn ch s
  | .polyPressure ch => Sys2Proof.Machine.execPolyPressure ch s
  | .controlChange ch => Sys2Proof.Machine.execControlChange ch s
  | .programChange ch => Sys2Proof.Machine.execProgramChange ch s
  | .channelPressure ch => Sys2Proof.Machine.execChannelPressure ch s
  | .pitchBend ch => Sys2Proof.Machine.execPitchBend ch s
  | .sysexStart => Sys2Proof.Machine.execSysexStart s
  | .timeCode => Sys2Proof.Machine.execTimeCode s
  | .songPosition => Sys2Proof.Machine.execSongPosition s
  | .songSelect => Sys2Proof.Machine.execSongSelect s
  | .unrecF4 => Sys2Proof.Machine.execUnrecF4 s
  | .unrecF5 => Sys2Proof.Machine.execUnrecF5 s
  | .unrecF6 => Sys2Proof.Machine.execUnrecF6 s
  | .sysexEnd => Sys2Proof.Machine.execSysexEnd s
  | .rtF8 => Sys2Proof.Machine.execRtF8 s
  | .unrecF9 => Sys2Proof.Machine.execUnrecF9 s
  | .rtFA => Sys2Proof.Machine.execRtFA s
  | .rtFB => Sys2Proof.Machine.execRtFB s
  | .rtFC => Sys2Proof.Machine.execRtFC s
  | .unrecFD => Sys2Proof.Machine.execUnrecFD s
  | .unrecFE => Sys2Proof.Machine.execUnrecFE s
  | .rtFF => Sys2Proof.Machine.execRtFF s
  | .btnFall => Sys2Proof.Machine.execBtnFall s
  | .btnRise => Sys2Proof.Machine.execBtnRise s
  | .tick => Sys2Proof.Machine.execTick s
  | .cfgMode value => Sys2Proof.Machine.execCfgMode value s
  | .cfgMask value => Sys2Proof.Machine.execCfgMask value s
  | .cfgRsvd sel value => Sys2Proof.Machine.execCfgRsvd sel value s
  | .serPush b => Sys2Proof.Machine.execSerPush b s
  | .btnPush e => Sys2Proof.Machine.execBtnPush e s
  | .outPop => Sys2Proof.Machine.execOutPop s
  | .decClear => Sys2Proof.Machine.execDecClear s
  | .rst => Sys2Proof.Machine.execRst s
  | .serPop => Sys2Proof.Machine.execSerPop s
  | .btnPop => Sys2Proof.Machine.execBtnPop s
  | .outPushMidi status d0 d1 => Sys2Proof.Machine.execOutPushMidi status d0 d1 s
  | .outPushBtn kind => Sys2Proof.Machine.execOutPushBtn kind s

end Sys2Proof.Machine
end

