-- ==== Sys2Proof/Machine/Ports.lean ====
section
/-! DEFINITION. The output ports of one cycle (spec/30_encoding.md R59 to R61, R63, spec/42_fifo.md R125). -/

namespace Sys2Proof.Machine

/-- `dec_evt_kind` (R60). -/
def evtKind : Option DecodedEvent → BitVec 3
  | none => 0
  | some (.realTime _) => 1
  | some (.oneData _ _) => 2
  | some (.twoData _ _ _) => 3
  | some (.sysEx _ _) => 4

/-- `dec_evt_status` (R60); `free` is the value while no event is emitted. -/
def evtStatus (free : Byte) : Option DecodedEvent → Byte
  | none => free
  | some (.realTime b) => b
  | some (.oneData status _) => status
  | some (.twoData status _ _) => status
  | some (.sysEx _ _) => 0xF0

/-- `dec_evt_d0` (R60). -/
def evtD0 : Option DecodedEvent → Byte
  | some (.oneData _ data) => data
  | some (.twoData _ d0 _) => d0
  | some (.realTime _) | some (.sysEx _ _) | none => 0x00

/-- `dec_evt_d1` (R60). -/
def evtD1 : Option DecodedEvent → Byte
  | some (.twoData _ _ d1) => d1
  | some (.realTime _) | some (.oneData _ _) | some (.sysEx _ _) | none => 0x00

/-- `sx_len` (R60). -/
def evtLen : Option DecodedEvent → Nat
  | some (.sysEx _ len) => len
  | some (.realTime _) | some (.oneData _ _) | some (.twoData _ _ _) | none => 0

/-- The bytes of `sx_buf` that R60 specifies: `BUF[k]` for `k < len` in the cycle of a SysEx event. -/
def evtBytes : Option DecodedEvent → List Byte
  | some (.sysEx bytes _) => bytes
  | some (.realTime _) | some (.oneData _ _) | some (.twoData _ _ _) | none => []

/-- `sx_buf` (R60), byte `k` at index `k`: `SYSEX_CAP` bytes, free where unspecified. -/
def sxBufPort (cap n : Nat) (ev : Option DecodedEvent) : List Byte :=
  (List.range cap).map fun k => (evtBytes ev).getD k (Config.freeSxByte n k)

/-- `btn_evt_kind` (R61): 0 when not valid. -/
def pressPort : Option PressKind → BitVec 2
  | none => 0
  | some k => pressCode k

/-- The output ports of a cycle: the queue and configuration ports from the state at its start, the taps from the wires of
the cycle. In the reset cycle the wires stay quiet and `out_valid` is 0 (R142, R170). -/
def portsOut (rst : Bool) (start : State) (g : Signals) : Outputs where
  outValid := !rst && outValid start
  outData :=
    if rst then Config.freeOutData start.freeIdx else start.outq.headD (Config.freeOutData start.freeIdx)
  decEvtValid := g.ev.isSome
  decEvtKind := evtKind g.ev
  decEvtStatus := evtStatus (Config.freeEvtStatus start.freeIdx) g.ev
  decEvtD0 := evtD0 g.ev
  decEvtD1 := evtD1 g.ev
  sxLen := evtLen g.ev
  sxBuf := sxBufPort start.cfg.sysexCap start.freeIdx g.ev
  sysexOvf := g.ovf
  btnEvtValid := g.bev.isSome
  btnEvtKind := pressPort g.bev
  cfgMaskQ := start.cmask
  cfgModeQ := start.cmode

end Sys2Proof.Machine
end

