-- ==== Sys2Proof/Machine/Cycle.lean ====
section
/-! DEFINITION. One cycle of the whole block (spec/44_cycle.md R142): the instructions that its inputs and its state call for,
run one after the other by `exec`. Their order makes every read that of R142. The ingress pushes come first, so that room is
judged on the start of the cycle; each pop is called for by the state at the start, so nothing falls through; the filter sees
the mask that the configuration write, which comes last, has not changed yet. -/

namespace Sys2Proof.Machine

/-- Run an instruction if the cycle calls for it. -/
def execIf (c : Bool) (i : Instr) (s : State) : Result := if c then exec i s else .next s

/-- The start of a cycle: this cycle's inputs are taken, the wires are quiet, and the free values are the next ones. -/
def beginCycle (s : State) : State :=
  { s with inputs := s.inputs.tail, sig := Signals.quiet, freeIdx := s.freeIdx + 1 }

/-- The ingress pushes (R119, R121). -/
def pushPhase (p : PortsIn) (s : State) : Result :=
  andThen (execIf p.serPush (.serPush p.serData) s) fun s =>
  execIf p.btnPush (.btnPush (edgeOfBit p.btnEdge)) s

/-- The byte taken from `SERQ` is the decoder's instruction (R120, R144). -/
def runByte (s : State) : Result :=
  match s.sig.b with
  | some b => exec (decodeByte b) s
  | none => .next s

/-- The decoder's part (R142): clear, or take a byte and feed it. `take` says whether it takes one. -/
def decoderPhase (clear take : Bool) (s : State) : Result :=
  if clear then exec .decClear s
  else if take then andThen (exec .serPop s) runByte
  else .next s

/-- The filter's part: an accepted event is the first request of `OUTQ` (R123, R126). -/
def filterPhase (s : State) : Result :=
  match filterEvent s.cmask s.cfg.modCcId s.sig.ev with
  | some (status, d0, d1) => exec (.outPushMidi status d0 d1) s
  | none => .next s

/-- The edge taken from `BTNQ` is the classifier's instruction (R122, R145). -/
def runEdge (s : State) : Result :=
  match s.sig.e with
  | some e => exec (edgeInstr e) s
  | none => .next s

/-- The classifier's part: the tick, then the edge (R105). -/
def classifierPhase (tick take : Bool) (s : State) : Result :=
  andThen (execIf tick .tick s) fun s =>
  if take then andThen (exec .btnPop s) runEdge else .next s

/-- A press kind emitted this cycle is the second request of `OUTQ` (R124, R126). -/
def pressPhase (s : State) : Result :=
  match s.sig.bev with
  | some k => exec (.outPushBtn k) s
  | none => .next s

/-- The consumer's pop (R125) and the configuration write (R135). -/
def consumerPhase (p : PortsIn) (take : Bool) (s : State) : Result :=
  andThen (execIf take .outPop s) fun s =>
  execIf p.cfgWe (cfgInstr p.cfgSel p.cfgValue) s

/-- The end of a cycle: its output ports are presented. -/
def endCycle (rst : Bool) (start s : State) : Result :=
  .next { s with out := portsOut rst start s.sig }

/-- The phases that follow the decoder's in a cycle that began in `start`. -/
def afterDecoder (p : PortsIn) (start s : State) : Result :=
  andThen (filterPhase s) fun s =>
  andThen (classifierPhase p.tick (classifierTakes p start) s) fun s =>
  andThen (pressPhase s) fun s =>
  andThen (consumerPhase p (consumerTakes p start) s) fun s =>
  endCycle false start s

/-- One cycle with inputs `p` (R142). -/
def cycle (p : PortsIn) (s : State) : Result :=
  if p.rst then andThen (exec .rst (beginCycle s)) (endCycle true s)
  else
    andThen (pushPhase p (beginCycle s)) fun t =>
    andThen (decoderPhase p.decClear (decoderTakes p s) t) (afterDecoder p s)

end Sys2Proof.Machine
end

