-- ==== Sys2Proof/Machine/Step.lean ====
section
/-! DEFINITION. The step of the machine: one clock cycle (spec/44_cycle.md R141), and where the next instruction is placed. -/

namespace Sys2Proof.Machine

/-- The input ports of the coming cycle: the next of the pending ones, none when there are no more (R66, R143). -/
def nextInputs (s : State) : PortsIn := s.inputs.headD PortsIn.idle

/-- One step. An instance outside the legal parameters is refused (R158); a boundary outside the reachable states faults
(R153); else one cycle runs. -/
def step (s : State) : Host.Outcome State Fault Refusal :=
  if legalConfig s.cfg then
    if boundaryOk s then cycle (nextInputs s) s else .fault .unreachableState
  else .refused .resourceInitFailure

/-- Place an input byte where the next step takes it: at the head of `SERQ`, with the coming cycle's `dec_run` set and its
other inputs 0 (notes/assumptions/6.md). The bits above `nbits` are 0; the longest instruction the table gives bits has 8. -/
def State.withFetchWord (s : State) (nbits w : Nat) : State :=
  { s with
    serq := BitVec.ofNat 8 (w % 2 ^ nbits) :: s.serq.tail
    inputs := { PortsIn.idle with decRun := true } :: s.inputs.tail }

end Sys2Proof.Machine
end

