-- ==== Sys2Proof/Machine/Reference.lean ====
section
/-! DEFINITION. The spec's own pseudocode of the cycle, transcribed whole: R105's `classify`, R135's `cfg_write` and R142's
`step`, over R68's `feed`, R128's `filter` and R116's `fifo_cycle`. The model's step runs instructions one after the other;
that it is this function is a statement of its own (Obligations.StepIsCycleOfR142). -/

namespace Sys2Proof.Machine

/-- `classify(tick, e)` (R105): `BS`, `BREM` at the end of the cycle, and `bev`. -/
def classifyR105 (cfg : Config) (tick : Bool) (e : Option Edge) (bs : ButtonState) (brem : Nat) :
    ButtonState × Nat × Option PressKind :=
  let timed := tick && decide (bs = .timing)
  let rem1 := if timed then brem - 1 else brem
  let expired := timed && decide (rem1 = 0)
  let bev1 := if expired then some PressKind.veryLong else none
  let bs1 := if expired then ButtonState.idle else bs
  match e with
  | some .falling => (.timing, cfg.vlongTicks, bev1)
  | some .rising =>
    match bs1 with
    | .timing => (.idle, 0, some (if rem1 > cfg.vlongTicks - cfg.longTicks then .short else .long))
    | .idle => (bs1, rem1, bev1)
  | none => (bs1, rem1, bev1)

/-- `cfg_write(sel, v)` (R135): `CMASK`, `CMODE` at the end of the cycle. -/
def cfgWriteR135 (sel : BitVec 2) (v : BitVec 32) (cmask : BitVec 16) (cmode : BitVec 2) : BitVec 16 × BitVec 2 :=
  if sel = 1 ∧ v.toNat ≤ 0xFFFF then (v.extractLsb' 0 16, cmode)
  else if sel = 0 ∧ v.toNat ≤ 3 then (cmask, v.extractLsb' 0 2)
  else (cmask, cmode)

/-- The push requests of `SERQ` in a cycle (R119). -/
def serRequest (p : PortsIn) : List Byte := if p.serPush then [p.serData] else []

/-- The push requests of `BTNQ` (R121). -/
def btnRequest (p : PortsIn) : List Edge := if p.btnPush then [edgeOfBit p.btnEdge] else []

/-- The filter's push request of `OUTQ` (R123), from the mask `mask` and this cycle's event. -/
def midiRequest (cfg : Config) (mask : BitVec 16) (ev : Option DecodedEvent) : List OutWord :=
  match filterEvent mask cfg.modCcId ev with
  | some (status, d0, d1) => [midiWord status d0 d1]
  | none => []

/-- The classifier's push request of `OUTQ` (R124). -/
def pressRequest (cfg : Config) (bev : Option PressKind) : List OutWord :=
  match bev with
  | some k => [buttonWord (buttonId cfg) k]
  | none => []

/-- `ser_pop` (R142). -/
def serPopR142 (p : PortsIn) (s : State) : Bool := !p.decClear && p.decRun && !s.serq.isEmpty

/-- `btn_pop` (R142). -/
def btnPopR142 (p : PortsIn) (s : State) : Bool := p.btnRun && !s.btnq.isEmpty

/-- The decoder's part (R142): clear, or feed the head of `SERQ`, or nothing. -/
def decoderR142 (p : PortsIn) (s : State) : Result :=
  if p.decClear then .next (clearDecoder (beginCycle s))
  else
    match (if serPopR142 p s then s.serq.head? else none) with
    | some b => feed b (beginCycle s)
    | none => .next (beginCycle s)

/-- The rest of R142 after the decoder's part has left `d`: classifier, queues, configuration and taps, each from the state
`s` at the start of the cycle. -/
def finishR142 (p : PortsIn) (s d : State) : State :=
  let e := if btnPopR142 p s then s.btnq.head? else none
  let timed := classifyR105 s.cfg p.tick e s.bs s.brem
  let config := if p.cfgWe then cfgWriteR135 p.cfgSel p.cfgValue s.cmask s.cmode else (s.cmask, s.cmode)
  let g := { d.sig with b := if serPopR142 p s then s.serq.head? else none, e := e, bev := timed.2.2 }
  { d with
    bs := timed.1, brem := timed.2.1
    serq := fifoCycle s.cfg.serDepth s.serq (serPopR142 p s) (serRequest p)
    btnq := fifoCycle s.cfg.btnDepth s.btnq (btnPopR142 p s) (btnRequest p)
    outq := fifoCycle s.cfg.outDepth s.outq p.outPop (midiRequest s.cfg s.cmask d.sig.ev ++ pressRequest s.cfg timed.2.2)
    cmask := config.1, cmode := config.2
    sig := g
    out := portsOut false s g }

/-- `step(in)` (R142) with inputs `p`: every read is of the state `s` at the start of the cycle. -/
def cycleR142 (p : PortsIn) (s : State) : Result :=
  if p.rst then
    .next { beginCycle s with
      ds := .awaitStatus, rs := 0x00, d0 := 0x00, d1 := 0x00, idx := 0
      bs := .idle, brem := 0, serq := [], btnq := [], outq := []
      cmask := BitVec.ofNat 16 s.cfg.maskReset, cmode := BitVec.ofNat 2 s.cfg.modeReset
      out := portsOut true s Signals.quiet }
  else andThen (decoderR142 p s) fun d => .next (finishR142 p s d)

/-- A state with its cycle's error codes left out: no port carries one (R151), and R142 does not order them. -/
def forgetCodes (s : State) : State := { s with sig := { s.sig with codes := [] } }

end Sys2Proof.Machine
end

