-- ==== Sys2Proof/Safety.lean ====
section
/-! DEFINITION. What a safe state and a safe run are: the invariants that the spec states of every cycle boundary
(spec/10_state.md R18, R23, R24, R25, R28, spec/42_fifo.md R127), and runs from power-on under any inputs. -/

namespace Sys2Proof.Machine

/-- The link between `DS` and `RS` (R25). -/
def runningStatusOk (s : State) : Bool :=
  match s.ds with
  | .awaitFirstData | .awaitSecondData => isTwo s.rs
  | .awaitSingleData => isOne s.rs
  | .awaitSysEx => s.rs == 0xF0
  | .awaitStatus => s.rs == 0x00 || isOne s.rs || isTwo s.rs || isSysExStart s.rs

/-- The entries of `BUF` that a SysEx in progress has written (R24). -/
def sysExFilled (s : State) : Prop :=
  s.ds = .awaitSysEx → ∀ k, k < s.idx → (Memory.read s.buf k).isSome

/-- A well-formed word of `OUTQ` (R58, R127). -/
def outWordOk (cfg : Config) (w : OutWord) : Prop :=
  (∃ status d0 d1, passedStatus status = true ∧ dataByte d0 = true ∧ dataByte d1 = true ∧ w = midiWord status d0 d1)
  ∨ ∃ kind, w = buttonWord (buttonId cfg) kind

/-- The invariant of the block at a cycle boundary. -/
structure Inv (s : State) : Prop where
  /-- The instance is a legal one (R7). -/
  legal : legalConfig s.cfg = true
  /-- R23, R28, and the counts of R127. -/
  boundary : boundaryOk s = true
  /-- R25. -/
  status : runningStatusOk s = true
  /-- `D0` and `D1` hold data bytes (R20, R21, R62). -/
  data : isData s.d0 = true ∧ isData s.d1 = true
  /-- `BUF` keeps its canonical form, and no index at or above `SYSEX_CAP` was written (R23). -/
  buffer : Memory.wf s.buf = true ∧ Memory.within s.cfg.sysexCap s.buf = true
  /-- R24. -/
  filled : sysExFilled s
  /-- R127. -/
  words : ∀ w ∈ s.outq, outWordOk s.cfg w

/-- The architectural registers and queues of R14 agree. -/
structure SameArch (s t : State) : Prop where
  ds : t.ds = s.ds
  rs : t.rs = s.rs
  d0 : t.d0 = s.d0
  d1 : t.d1 = s.d1
  idx : t.idx = s.idx
  bs : t.bs = s.bs
  brem : t.brem = s.brem
  serq : t.serq = s.serq
  btnq : t.btnq = s.btnq
  outq : t.outq = s.outq
  cmask : t.cmask = s.cmask
  cmode : t.cmode = s.cmode

/-- A power-on state of an instance with the input ports of its coming cycles. -/
def State.start (cfg : Config) (inputs : List PortsIn) : State := { State.powerOn cfg with inputs := inputs }

/-! ## The vocabulary of the statements -/

/-- The state after a feed whose outputs are `ev` and `ovf` and which raised the codes `cs` (R67): nothing else is changed. -/
def State.fed (s : State) (ev : Option DecodedEvent) (ovf : Bool) (cs : List ErrorCode) : State :=
  { s with sig := { s.sig with ev := ev, ovf := ovf, codes := s.sig.codes ++ cs } }

/-- The state after the codes `cs` were raised: nothing else is changed. -/
def State.withRaised (s : State) (cs : List ErrorCode) : State :=
  { s with sig := { s.sig with codes := s.sig.codes ++ cs } }

/-- A byte sequence fed to the decoder one byte after the other: the outputs `(ev, ovf)` of each feed, and the last state.
`none` if a feed stops. -/
def feedBytes : List Byte → State → Option (List (Option DecodedEvent × Bool) × State)
  | [], s => some ([], s)
  | b :: bs, s =>
    match exec (decodeByte b) s with
    | .next t => (feedBytes bs t).map fun r => ((t.sig.ev, t.sig.ovf) :: r.1, r.2)
    | .fault _ => none
    | .refused _ => none

/-- `n` ticks one after the other. -/
def ticks : Nat → State → Result
  | 0, s => .next s
  | n + 1, s => andThen (ticks n s) (exec .tick)

/-- Whether an output of a feed is a RealTime event. -/
def isRealTimeOutput : Option DecodedEvent × Bool → Bool
  | (some (.realTime _), _) => true
  | (some (.oneData _ _), _) | (some (.twoData _ _ _), _) | (some (.sysEx _ _), _) | (none, _) => false

/-- Whether an output of a feed is a SysEx event. -/
def isSysExOutput : Option DecodedEvent × Bool → Bool
  | (some (.sysEx _ _), _) => true
  | (some (.oneData _ _), _) | (some (.twoData _ _ _), _) | (some (.realTime _), _) | (none, _) => false

/-- The byte rows of the opcode table. -/
def isByteRow (i : Instr) : Bool :=
  match encode Config.default i with
  | .midiByte _ => true
  | .btnEdge _ | .ports _ | .outWord _ => false

end Sys2Proof.Machine
end

