-- ==== Sys2Proof/Certificates/Slice0/Obligations.lean ====
section
/-! DEFINITION. The statements for the provers. Each docstring cites the rule of spec/ it formalises. A result of the form
`exec i s = .next { s with … }` is the instruction's completion, its result and its frame at once: every register, queue,
byte of `BUF` and wire that the update does not name is unchanged. -/

open Sys2Proof Sys2Proof.Machine

/-! ## Encodings -/

/-- Tier 1. Words written out bit by bit from the spec's encodings (R54 to R58) decode to what they stand for;
how ports and OUT words stand for an instruction is the model's choice (notes/assumptions/10.md). -/
def Obligations.WrittenWordsDecode : Prop :=
  ∀ cfg : Config, cfg.btnId = 3 →
    decode cfg (.midiByte 0b01000000) = .ok (.data 0x40)
    ∧ decode cfg (.midiByte 0b10010101) = .ok (.noteOn 5)
    ∧ decode cfg (.midiByte 0b11011111) = .ok (.channelPressure 15)
    ∧ decode cfg (.midiByte 0b11110010) = .ok .songPosition
    ∧ decode cfg (.midiByte 0b11110111) = .ok .sysexEnd
    ∧ decode cfg (.midiByte 0b11111110) = .ok .unrecFE
    ∧ decode cfg (.midiByte 0b11111111) = .ok .rtFF
    ∧ decode cfg (.btnEdge 0b0) = .ok .btnFall
    ∧ decode cfg (.btnEdge 0b1) = .ok .btnRise
    ∧ decode cfg (.ports { PortsIn.idle with cfgWe := true, cfgSel := 0b01, cfgValue := 0x00010000 })
        = .ok (.cfgMask 0x10000)
    ∧ decode cfg (.outWord 0b0100100000100000001111111) = .ok (.outPushMidi 0x90 0x40 0x7F)
    ∧ decode cfg (.outWord 0b1000000110000000000000010) = .ok (.outPushBtn .veryLong)

/-- Tier 1. R12: the byte sets, the SysEx end, and that every byte is in exactly one of the sets. -/
def Obligations.ByteSetsPartition : Prop :=
  ∀ b : Byte,
    (isData b = true ↔ b.toNat < 0x80)
    ∧ (isRealTime b = true ↔ b ∈ [0xF8#8, 0xFA#8, 0xFB#8, 0xFC#8, 0xFF#8])
    ∧ (isOne b = true ↔ b.toNat / 16 ∈ [0xC, 0xD] ∨ b ∈ [0xF1#8, 0xF3#8])
    ∧ (isTwo b = true ↔ b.toNat / 16 ∈ [0x8, 0x9, 0xA, 0xB, 0xE] ∨ b = 0xF2#8)
    ∧ (isSysExStart b = true ↔ b = 0xF0#8)
    ∧ (isUnrec b = true ↔ b ∈ [0xF4#8, 0xF5#8, 0xF6#8, 0xF7#8, 0xF9#8, 0xFD#8, 0xFE#8])
    ∧ (isUnrec b = true ↔ 0x80 ≤ b.toNat
        ∧ isRealTime b = false ∧ isOne b = false ∧ isTwo b = false ∧ isSysExStart b = false)
    ∧ (decodeByte b = .sysexEnd ↔ b = 0xF7#8)
    ∧ ([isData b, isRealTime b, isOne b, isTwo b, isSysExStart b, isUnrec b].filter id).length = 1

/-- Tier 1. R55: every byte value has exactly one row of the opcode map, the decoder reads that row, and the row's class is
the byte's set. -/
def Obligations.EveryByteHasOneRow : Prop :=
  ∀ b : Byte,
    (byteRows.filter fun r => b &&& r.mask = r.pattern).map ByteRow.mnemonic = [(decodeByte b).mnemonic]
    ∧ ((decodeByte b).mnemonic = "DATA" ↔ isData b = true)
    ∧ ((decodeByte b).mnemonic ∈ ["NOTE_OFF", "NOTE_ON", "POLY_PRESSURE", "CONTROL_CHANGE", "PITCH_BEND", "SONG_POSITION"]
        ↔ isTwo b = true)
    ∧ ((decodeByte b).mnemonic ∈ ["PROGRAM_CHANGE", "CHANNEL_PRESSURE", "TIME_CODE", "SONG_SELECT"] ↔ isOne b = true)
    ∧ ((decodeByte b).mnemonic = "SYSEX_START" ↔ isSysExStart b = true)
    ∧ ((decodeByte b).mnemonic ∈ ["UNREC_F4", "UNREC_F5", "UNREC_F6", "SYSEX_END", "UNREC_F9", "UNREC_FD", "UNREC_FE"]
        ↔ isUnrec b = true)
    ∧ ((decodeByte b).mnemonic ∈ ["RT_F8", "RT_FA", "RT_FB", "RT_FC", "RT_FF"] ↔ isRealTime b = true)

/-- Tier 3. Decoding the encoding of a well-formed instruction gives it back, for every instruction, with every operand at
every value and in an instance with any parameters; the codes of the rows that are no byte are notes/assumptions/10.md's. -/
def Obligations.DecodeOfEncode : Prop :=
  ∀ (cfg : Config) (i : Instr), i.wf = true → decode cfg (encode cfg i) = .ok i

/-- Tier 2. The other direction: what decodes is well-formed, and a byte, an edge item or an OUT word is the one encoding of
what it decodes to; so no reserved OUT word decodes to a neighbour (codes: notes/assumptions/10.md). -/
def Obligations.EncodeOfDecode : Prop :=
  ∀ (cfg : Config) (c : Code) (i : Instr), decode cfg c = .ok i →
    i.wf = true ∧ ((∀ p, c ≠ .ports p) → encode cfg i = c)

/-- Tier 1. R58: the fields of the two kinds of OUT word. -/
def Obligations.OutWordFields : Prop :=
  (∀ status d0 d1 : Byte,
    (midiWord status d0 d1).getLsbD 24 = false ∧ (midiWord status d0 d1).extractLsb' 16 8 = status
    ∧ (midiWord status d0 d1).extractLsb' 8 8 = d0 ∧ (midiWord status d0 d1).extractLsb' 0 8 = d1)
  ∧ (∀ (id : Byte) (kind : PressKind),
    (buttonWord id kind).getLsbD 24 = true ∧ (buttonWord id kind).extractLsb' 16 8 = id
    ∧ (buttonWord id kind).extractLsb' 8 8 = 0x00#8 ∧ (buttonWord id kind).extractLsb' 2 6 = 0#6
    ∧ (buttonWord id kind).extractLsb' 0 2 = pressCode kind)
  ∧ (∀ kind, pressCode kind ≠ 3#2) ∧ pressCode .short = 0#2 ∧ pressCode .long = 1#2 ∧ pressCode .veryLong = 2#2
  ∧ midiWord 0x90 0x40 0x7F = 0x090407F#25 ∧ buttonWord 0 .long = 0x1000001#25

/-! ## Reset, the invariant, and runs -/

/-- Tier 1. R40: every register's reset value, in an instance with any parameters; and the power-on state is the state a
reset cycle leaves (R171). -/
def Obligations.PowerOnValues : Prop :=
  ∀ cfg : Config,
    (State.powerOn cfg).ds = .awaitStatus ∧ phaseCode (.latched (State.powerOn cfg).ds) = 0
    ∧ buttonCode (State.powerOn cfg).bs = 0 ∧ (State.powerOn cfg).rs = 0x00#8 ∧ (State.powerOn cfg).d0 = 0x00#8
    ∧ (State.powerOn cfg).d1 = 0x00#8 ∧ (State.powerOn cfg).idx = 0 ∧ (State.powerOn cfg).bs = .idle
    ∧ (State.powerOn cfg).brem = 0 ∧ (State.powerOn cfg).serq = [] ∧ (State.powerOn cfg).btnq = []
    ∧ (State.powerOn cfg).outq = [] ∧ (State.powerOn cfg).cmask = BitVec.ofNat 16 cfg.maskReset
    ∧ (State.powerOn cfg).cmode = BitVec.ofNat 2 cfg.modeReset
    ∧ ∀ s t : State, s.cfg = cfg → exec .rst s = .next t → SameArch (State.powerOn cfg) t

/-- Tier 1. The invariant holds at reset, and at power-on of every legal instance under any inputs to come
(the instance of `State.reset` and an unwritten `BUF` are the model's choices, notes/assumptions/1.md and 3.md). -/
def Obligations.PowerOnMeetsInvariant : Prop :=
  Inv State.reset ∧ ∀ (cfg : Config) (inputs : List PortsIn), legalConfig cfg = true → Inv (State.start cfg inputs)

/-- Tier 3. The invariants of every cycle boundary (R18, R23, R24, R25, R28, R127; the accumulator's canonical form; a legal
instance) are kept by every step, from every state that meets them. -/
def Obligations.StepKeepsInvariant : Prop :=
  ∀ s t : State, Inv s → step s = .next t → Inv t

/-- Tier 2. From every state that meets the invariant a step answers a next state: no fault and no refusal (R153: no
reachable run raises one; R164: every input is always accepted). -/
def Obligations.StepNeverStops : Prop :=
  ∀ s : State, Inv s → ∃ t, step s = .next t

/-- Tier 2. R153, over runs: from power-on of a legal instance, whatever its inputs are, a run of any length stops nowhere,
and its last state meets the invariant (inputs as a list: notes/assumptions/2.md). -/
def Obligations.RunsFromPowerOnNeverStop : Prop :=
  ∀ (cfg : Config) (inputs : List PortsIn) (n : Nat), legalConfig cfg = true →
    ∃ t : State, Sys2Proof.core.run n (State.start cfg inputs) = .next t ∧ Inv t

/-- Tier 1. R158: an instance outside the legal ranges of R7 takes no step. -/
def Obligations.IllegalParametersRefused : Prop :=
  ∀ s : State,
    (s.cfg.serDepth = 0 ∨ s.cfg.btnDepth = 0 ∨ s.cfg.outDepth = 0 ∨ s.cfg.sysexCap = 0 ∨ s.cfg.vlongTicks = 0
      ∨ s.cfg.longTicks > s.cfg.vlongTicks ∨ s.cfg.modCcId > 127 ∨ s.cfg.btnId > 255 ∨ s.cfg.maskReset > 0xFFFF
      ∨ s.cfg.modeReset > 3) →
    step s = .refused .resourceInitFailure

/-- Tier 1. R153: at a cycle boundary outside the reachable shapes the model faults with `UnreachableState`
(the clause on `DS` in 5..7 has no state, notes/assumptions/7.md). -/
def Obligations.UnreachableBoundaryFaults : Prop :=
  ∀ s : State, legalConfig s.cfg = true →
    ((s.bs = .timing ∧ ¬ (1 ≤ s.brem ∧ s.brem ≤ s.cfg.vlongTicks)) ∨ (s.bs = .idle ∧ s.brem ≠ 0)
      ∨ s.idx > s.cfg.sysexCap ∨ s.serq.length > s.cfg.serDepth ∨ s.btnq.length > s.cfg.btnDepth
      ∨ s.outq.length > s.cfg.outDepth) →
    step s = .fault .unreachableState

/-- Tier 2. R8: the counters, held as naturals (notes/assumptions/8.md), fit the derived widths. -/
def Obligations.CountersFitTheirWidths : Prop :=
  ∀ s : State, Inv s → s.idx < 2 ^ widthFor s.cfg.sysexCap ∧ s.brem < 2 ^ widthFor s.cfg.vlongTicks

/-! ## The step -/

/-- Tier 2. R142: the step, which runs the cycle's instructions one after the other, is the cycle of R142, transcribed from
the spec's pseudocode with every read of the state at the start of the cycle; the codes raised, which no port carries, aside
(notes/assumptions/9.md). -/
def Obligations.StepIsCycleOfR142 : Prop :=
  ∀ s : State, legalConfig s.cfg = true → boundaryOk s = true →
    andThen (step s) (fun t => .next (forgetCodes t))
      = andThen (cycleR142 (nextInputs s) s) (fun t => .next (forgetCodes t))

/-- Tier 1. A step runs the decoded byte: when the decoder takes the head of `SERQ` (R120, R144), the step is that byte's
instruction and then the cycle's other phases. That it runs after the ingress pushes and `SER_POP` is the model's order of
the cycle's instructions (notes/assumptions/9.md, DEDUCED), not the textual order of R142. -/
def Obligations.StepRunsDecodedByte : Prop :=
  ∀ (s t u : State) (b : Byte) (q : List Byte), legalConfig s.cfg = true → boundaryOk s = true →
    (nextInputs s).rst = false → (nextInputs s).decClear = false → (nextInputs s).decRun = true → s.serq = b :: q →
    pushPhase (nextInputs s) (beginCycle s) = .next t → exec .serPop t = .next u →
    u.sig.b = some b ∧ decode s.cfg (.midiByte b) = .ok (decodeByte b)
    ∧ step s = andThen (exec (decodeByte b) u) (afterDecoder (nextInputs s) s)

/-- Tier 1. A step runs the instruction its ports stand for: when they ask for one operation that starts nothing else, the
step is that instruction at the beginning of the cycle, and the ports are presented (R142). Ports as a code are
notes/assumptions/10.md's; the order of the phases is the model's (notes/assumptions/9.md, DEDUCED). -/
def Obligations.StepRunsPortRequest : Prop :=
  ∀ (s : State) (i : Instr), legalConfig s.cfg = true → boundaryOk s = true →
    decode s.cfg (.ports (nextInputs s)) = .ok i → i ≠ .serPop → i ≠ .btnPop →
    step s = andThen (exec i (beginCycle s)) fun t => andThen (pressPhase t) (endCycle (nextInputs s).rst s)

/-- Tier 1. A step that takes an edge runs the edge's instruction (R122, R145): nothing else asked for, the head of `BTNQ` is
`BTN_FALL` or `BTN_RISE`. That it runs after `BTN_POP` as an instruction of its own is the model's order of the cycle's
instructions (notes/assumptions/9.md, DEDUCED). -/
def Obligations.StepRunsDecodedEdge : Prop :=
  ∀ (s : State) (e : Edge) (q : List Edge), legalConfig s.cfg = true → boundaryOk s = true →
    nextInputs s = { PortsIn.idle with btnRun := true } → s.btnq = e :: q →
    decode s.cfg (.btnEdge (bitOfEdge e)) = .ok (edgeInstr e)
    ∧ step s = andThen (exec .btnPop (beginCycle s)) fun t => andThen (exec (edgeInstr e) t) fun u =>
        andThen (pressPhase u) (endCycle false s)

/-- Tier 2. R7: the parameters are fixed for the life of an instance; and the inputs are taken one cycle a step
(both are held in the state by notes/assumptions/1.md and 2.md). -/
def Obligations.ParametersNeverChange : Prop :=
  ∀ s t : State, step s = .next t → t.cfg = s.cfg ∧ t.inputs = s.inputs.tail

/-- Tier 2. R14, R37: nothing but the state of R14 persists from one cycle to the next; wires and output ports are not
latched, so a step answers the same whatever they held (the codes raised, which no port carries, aside; the model keeps them in
the state by notes/assumptions/4.md). -/
def Obligations.WiresAndPortsDoNotPersist : Prop :=
  ∀ (s : State) (g : Signals) (o : Outputs),
    andThen (step { s with sig := g, out := o }) (fun t => .next (forgetCodes t))
      = andThen (step s) fun t => .next (forgetCodes t)

/-! ## The decoder -/

/-- Tier 1. R69, R99 to R103: in every state a real-time byte is reported and writes no register. -/
def Obligations.RealTimeBytesReportAndWriteNothing : Prop :=
  ∀ s : State,
    exec .rtF8 s = .next (s.fed (some (.realTime 0xF8)) false [])
    ∧ exec .rtFA s = .next (s.fed (some (.realTime 0xFA)) false [])
    ∧ exec .rtFB s = .next (s.fed (some (.realTime 0xFB)) false [])
    ∧ exec .rtFC s = .next (s.fed (some (.realTime 0xFC)) false [])
    ∧ exec .rtFF s = .next (s.fed (some (.realTime 0xFF)) false [])

/-- Tier 2. R81 to R84, R87, R90: in every latched state a two-data status byte preempts, becomes the running status and
leaves `AwaitFirstData`; no event, no overflow, and no error but the internal re-dispatch. -/
def Obligations.TwoDataStatusPreempts : Prop :=
  ∀ (s : State) (ch : BitVec 4),
    (∀ x ∈ [(Instr.noteOff ch, 0x8#4), (.noteOn ch, 0x9#4), (.polyPressure ch, 0xA#4), (.controlChange ch, 0xB#4),
        (.pitchBend ch, 0xE#4)],
      exec x.1 s = .next { s.fed none false [.reprocess] with rs := x.2 ++ ch, ds := .awaitFirstData })
    ∧ exec .songPosition s = .next { s.fed none false [.reprocess] with rs := 0xF2, ds := .awaitFirstData }

/-- Tier 2. R85, R86, R89, R91: the same for a one-data status byte, which leaves `AwaitSingleData`. -/
def Obligations.OneDataStatusPreempts : Prop :=
  ∀ (s : State) (ch : BitVec 4),
    (∀ x ∈ [(Instr.programChange ch, 0xC#4), (.channelPressure ch, 0xD#4)],
      exec x.1 s = .next { s.fed none false [.reprocess] with rs := x.2 ++ ch, ds := .awaitSingleData })
    ∧ exec .timeCode s = .next { s.fed none false [.reprocess] with rs := 0xF1, ds := .awaitSingleData }
    ∧ exec .songSelect s = .next { s.fed none false [.reprocess] with rs := 0xF3, ds := .awaitSingleData }

/-- Tier 2. R88: 0xF0 in every latched state restarts the accumulator; `BUF` itself is unchanged. -/
def Obligations.SysExStartRestarts : Prop :=
  ∀ s : State, exec .sysexStart s
    = .next { s.fed none false [.reprocess] with rs := 0xF0, idx := 0, ds := .awaitSysEx }

/-- Tier 2. R92, R94 to R98, R154: in every latched state an unrecognised status byte is dropped and resynchronises to
`AwaitStatus`; `RS`, `D0` and `IDX` are unchanged. -/
def Obligations.UnrecognizedStatusResynchronizes : Prop :=
  ∀ s : State,
    ∀ x ∈ [(Instr.unrecF4, 0xF4#8), (.unrecF5, 0xF5#8), (.unrecF6, 0xF6#8), (.unrecF9, 0xF9#8), (.unrecFD, 0xFD#8),
        (.unrecFE, 0xFE#8)],
      exec x.1 s = .next { s.fed none false [.reprocess, .unrecognizedStatus x.2] with ds := .awaitStatus }

/-- Tier 2. R77, R93: 0xF7 in `AwaitSysEx` emits the accumulated bytes in order and ends at `AwaitStatus`, `RS` and `IDX`
unchanged; in every other state it is dropped like any unrecognised status. -/
def Obligations.SysExEndEmitsAccumulatedBytes : Prop :=
  ∀ s : State,
    (s.ds = .awaitSysEx → s.idx ≤ s.cfg.sysexCap → (∀ k, k < s.idx → (Memory.read s.buf k).isSome) →
      ∃ bytes : List Byte, bytes.length = s.idx ∧ (∀ k, k < s.idx → bytes[k]? = Memory.read s.buf k)
        ∧ exec .sysexEnd s = .next { s.fed (some (.sysEx bytes s.idx)) false [.reprocess, .unrecognizedStatus 0xF7]
            with ds := .awaitStatus })
    ∧ (s.ds ≠ .awaitSysEx →
      exec .sysexEnd s = .next { s.fed none false [.reprocess, .unrecognizedStatus 0xF7] with ds := .awaitStatus })

/-- Tier 2. The model's choice (notes/assumptions/3.md) under R41, R42: 0xF7 in `AwaitSysEx` faults exactly when an entry
below `IDX` does not exist or was never written. No reachable state is one (StepKeepsInvariant). -/
def Obligations.SysExEndFaultsOnUnwritten : Prop :=
  ∀ s : State, s.ds = .awaitSysEx →
    ((∃ f, exec .sysexEnd s = .fault f) ↔ ∃ k, k < s.idx ∧ (s.cfg.sysexCap ≤ k ∨ Memory.read s.buf k = none))

/-- Tier 2. R80: a data byte in each of the five latched states, with everything it leaves alone. -/
def Obligations.DataByteInEveryState : Prop :=
  ∀ (s : State) (v : BitVec 7),
    (s.ds = .awaitStatus → exec (.data v) s = .next (s.fed none false []))
    ∧ (s.ds = .awaitFirstData →
      exec (.data v) s = .next { s.fed none false [] with d0 := 0#1 ++ v, ds := .awaitSecondData })
    ∧ (s.ds = .awaitSecondData →
      exec (.data v) s = .next { s.fed (some (.twoData s.rs s.d0 (0#1 ++ v))) false [] with
        d1 := 0#1 ++ v, ds := .awaitFirstData })
    ∧ (s.ds = .awaitSingleData →
      exec (.data v) s = .next (s.fed (some (.oneData s.rs (0#1 ++ v))) false []))
    ∧ (s.ds = .awaitSysEx → s.idx < s.cfg.sysexCap →
      exec (.data v) s = .next { s.fed none false [] with buf := Memory.write s.buf s.idx (0#1 ++ v), idx := s.idx + 1 })
    ∧ (s.ds = .awaitSysEx → ¬ s.idx < s.cfg.sysexCap →
      exec (.data v) s = .next { s.fed none true [.sysExOverflow] with idx := 0, ds := .awaitStatus })

/-- Tier 2. R76: a data byte in `AwaitSysEx` with room is stored at `BUF[IDX]`, every other byte of `BUF` reads as before, and
no other register changes; with none it overflows, stores nothing and resynchronises to `AwaitStatus`. -/
def Obligations.SysExDataAppendsOrOverflows : Prop :=
  ∀ (s : State) (v : BitVec 7), s.ds = .awaitSysEx →
    (s.idx < s.cfg.sysexCap → ∃ t, exec (.data v) s = .next t
      ∧ t = { s.fed none false [] with buf := t.buf, idx := s.idx + 1 }
      ∧ Memory.read t.buf s.idx = some (0#1 ++ v) ∧ ∀ a, a ≠ s.idx → Memory.read t.buf a = Memory.read s.buf a)
    ∧ (¬ s.idx < s.cfg.sysexCap →
      exec (.data v) s = .next { s.fed none true [.sysExOverflow] with idx := 0, ds := .awaitStatus })

/-- Tier 2. R22: only the append of R76 writes `BUF`; after every other instruction every byte of it reads as before. -/
def Obligations.OnlySysExDataWritesBuf : Prop :=
  ∀ (i : Instr) (s t : State), exec i s = .next t →
    ¬ (s.ds = .awaitSysEx ∧ s.idx < s.cfg.sysexCap ∧ ∃ v, i = .data v) →
    ∀ a, Memory.read t.buf a = Memory.read s.buf a

/-- Tier 2. R70: from a latched state the loop ends after one dispatch (a data byte) or two (a status byte that is not
real-time), a third is never needed; one feed never both emits an event and overflows; and the only status byte, real-time
bytes apart, that emits an event is 0xF7 in `AwaitSysEx`. -/
def Obligations.AtMostTwoDispatches : Prop :=
  (∀ (n : Nat) (ds : DecState) (b : Byte) (s : State), 2 ≤ n →
    dispatchLoop n (.latched ds) b s = dispatchLoop 2 (.latched ds) b s
    ∧ (isData b = true → dispatchLoop 1 (.latched ds) b s = dispatchLoop 2 (.latched ds) b s))
  ∧ ∀ (b : Byte) (s t : State), exec (decodeByte b) s = .next t →
    ¬ (t.sig.ev.isSome ∧ t.sig.ovf = true)
    ∧ (isData b = false → isRealTime b = false → t.sig.ev.isSome → b = 0xF7 ∧ s.ds = .awaitSysEx)

/-- Tier 2. R69, and the third property of R104: real-time bytes are transparent. Deleting them from a byte sequence deletes
exactly the RealTime outputs, and the registers, `BUF` among them, end the same. -/
def Obligations.RealTimeTransparency : Prop :=
  ∀ (bs : List Byte) (s t : State) (os : List (Option DecodedEvent × Bool)), feedBytes bs s = some (os, t) →
    ∃ u, feedBytes (bs.filter fun b => !isRealTime b) s = some (os.filter fun o => !isRealTimeOutput o, u)
      ∧ SameArch t u ∧ t.buf = u.buf

/-- Tier 2. The fourth property of R104: a message event carries a status of its own length. -/
def Obligations.EventsCarryMatchingStatus : Prop :=
  ∀ (b : Byte) (s t : State), runningStatusOk s = true → exec (decodeByte b) s = .next t →
    (∀ status d0 d1, t.sig.ev = some (.twoData status d0 d1) → isTwo status = true)
    ∧ (∀ status d, t.sig.ev = some (.oneData status d) → isOne status = true)
    ∧ (∀ bytes len, t.sig.ev = some (.sysEx bytes len) → len = bytes.length ∧ len ≤ s.cfg.sysexCap)

/-- Tier 2. R152 and the fifth property of R104: outside `AwaitSysEx`, so after an overflow, no SysEx event is emitted by any
bytes until a new 0xF0, even if a terminator arrives. -/
def Obligations.NoSysExEventBeforeNewStart : Prop :=
  ∀ (bs : List Byte) (s t : State) (os : List (Option DecodedEvent × Bool)),
    s.ds ≠ .awaitSysEx → 0xF0#8 ∉ bs → feedBytes bs s = some (os, t) → ∀ o ∈ os, isSysExOutput o = false

/-- Tier 2. R173: after a decoder clear or a block reset the decoder's registers are as at power-on and any bytes give
exactly the outputs they give from power-on, so no event depends on what `BUF` held; and a second one changes nothing. -/
def Obligations.ClearedDecoderIsFresh : Prop :=
  ∀ (bs : List Byte) (s t : State), exec .decClear s = .next t ∨ exec .rst s = .next t →
    (feedBytes bs t).map Prod.fst = (feedBytes bs (State.powerOn s.cfg)).map Prod.fst
    ∧ t.ds = (State.powerOn s.cfg).ds ∧ t.rs = (State.powerOn s.cfg).rs ∧ t.d0 = (State.powerOn s.cfg).d0
    ∧ t.d1 = (State.powerOn s.cfg).d1 ∧ t.idx = (State.powerOn s.cfg).idx
    ∧ (exec .decClear s = .next t → exec .decClear t = .next t) ∧ (exec .rst s = .next t → exec .rst t = .next t)

/-! ## The classifier -/

/-- Tier 1. R106: a press starts or restarts the timer, whatever the state was, and emits nothing. -/
def Obligations.PressStartsTimer : Prop :=
  ∀ s : State, exec .btnFall s = .next { s with bs := .timing, brem := s.cfg.vlongTicks }

/-- Tier 1. R107, R108: a tick counts down while timing, and the tick that reaches 0 expires into `VeryLong`; in `Idle` it
has no effect. -/
def Obligations.TickCountsDownAndExpires : Prop :=
  ∀ s : State,
    (s.bs = .timing → 2 ≤ s.brem → exec .tick s = .next { s with brem := s.brem - 1 })
    ∧ (s.bs = .timing → s.brem = 1 →
      exec .tick s = .next { s with bs := .idle, brem := 0, sig := { s.sig with bev := some .veryLong } })
    ∧ (s.bs = .idle → exec .tick s = .next s)

/-- Tier 1. R109, R110: a release while timing is `Short` iff `BREM > VLONG_TICKS - LONG_TICKS`, else `Long` (the boundary is
Long), and stops the timer; in `Idle` it has no effect. -/
def Obligations.ReleaseClassifiesPress : Prop :=
  ∀ s : State,
    (s.bs = .timing → s.brem > s.cfg.vlongTicks - s.cfg.longTicks →
      exec .btnRise s = .next { s with bs := .idle, brem := 0, sig := { s.sig with bev := some .short } })
    ∧ (s.bs = .timing → s.brem ≤ s.cfg.vlongTicks - s.cfg.longTicks →
      exec .btnRise s = .next { s with bs := .idle, brem := 0, sig := { s.sig with bev := some .long } })
    ∧ (s.bs = .idle → exec .btnRise s = .next s)

/-- Tier 2. R111: in ticks since the press. After a press and `k < VLONG_TICKS` ticks the release is `Short` iff
`k < LONG_TICKS` and `Long` otherwise; the `VLONG_TICKS`-th tick emits `VeryLong`, and a release after it nothing. -/
def Obligations.PressLengthInTicks : Prop :=
  ∀ (s p : State) (k : Nat), legalConfig s.cfg = true → exec .btnFall s = .next p →
    (k < s.cfg.vlongTicks → ∃ t u, ticks k p = .next t ∧ t.bs = .timing ∧ t.brem = s.cfg.vlongTicks - k
      ∧ t.sig.bev = s.sig.bev ∧ exec .btnRise t = .next u
      ∧ u.sig.bev = some (if k < s.cfg.longTicks then .short else .long))
    ∧ ∃ t, ticks s.cfg.vlongTicks p = .next t ∧ t.bs = .idle ∧ t.brem = 0 ∧ t.sig.bev = some .veryLong
      ∧ exec .btnRise t = .next t

/-- Tier 2. R113, R114: in one cycle the tick is applied before the edge. A tick that expires and a release taken in the same
cycle give `VeryLong` alone; a step emits no press kind unless a press was being timed. -/
def Obligations.ExpiryWinsOverRelease : Prop :=
  ∀ (s t : State), step s = .next t → (nextInputs s).rst = false →
    (s.bs = .timing → s.brem = 1 → (nextInputs s).tick = true → t.sig.bev = some .veryLong
      ∧ ((nextInputs s).btnRun = true → s.btnq.head? = some .rising → t.bs = .idle ∧ t.brem = 0))
    ∧ (s.bs = .idle → t.sig.bev = none)

/-! ## The queues -/

/-- Tier 1. R119, R121, R117: an ingress push is accepted at the tail iff its queue is below its depth; else it is dropped
and nothing but the unreported `ChannelFull` remains of it. -/
def Obligations.IngressPushAcceptsOrDrops : Prop :=
  ∀ (s : State) (b : Byte) (e : Edge),
    (s.serq.length < s.cfg.serDepth → exec (.serPush b) s = .next { s with serq := s.serq ++ [b] })
    ∧ (¬ s.serq.length < s.cfg.serDepth → exec (.serPush b) s = .next (s.withRaised [.channelFull]))
    ∧ (s.btnq.length < s.cfg.btnDepth → exec (.btnPush e) s = .next { s with btnq := s.btnq ++ [e] })
    ∧ (¬ s.btnq.length < s.cfg.btnDepth → exec (.btnPush e) s = .next (s.withRaised [.channelFull]))

/-- Tier 1. R123, R124, R117: the two pushes into `OUTQ`, with the word of R58. -/
def Obligations.OutputPushAcceptsOrDrops : Prop :=
  ∀ (s : State) (status d0 d1 : Byte) (kind : PressKind),
    (s.outq.length < s.cfg.outDepth →
      exec (.outPushMidi status d0 d1) s = .next { s with outq := s.outq ++ [midiWord status d0 d1] }
      ∧ exec (.outPushBtn kind) s = .next { s with outq := s.outq ++ [buttonWord (BitVec.ofNat 8 s.cfg.btnId) kind] })
    ∧ (¬ s.outq.length < s.cfg.outDepth →
      exec (.outPushMidi status d0 d1) s = .next (s.withRaised [.channelFull])
      ∧ exec (.outPushBtn kind) s = .next (s.withRaised [.channelFull]))

/-- Tier 1. R118, R120, R122, R125: a pop removes the head and hands it to its consumer; on an empty queue it has no effect. -/
def Obligations.PopTakesHead : Prop :=
  ∀ (s : State) (b : Byte) (bs : List Byte) (e : Edge) (es : List Edge) (w : OutWord) (ws : List OutWord),
    (s.serq = b :: bs → exec .serPop s = .next { s with serq := bs, sig := { s.sig with b := some b } })
    ∧ (s.btnq = e :: es → exec .btnPop s = .next { s with btnq := es, sig := { s.sig with e := some e } })
    ∧ (s.outq = w :: ws → exec .outPop s = .next { s with outq := ws })
    ∧ (s.serq = [] → exec .serPop s = .next s) ∧ (s.btnq = [] → exec .btnPop s = .next s)
    ∧ (s.outq = [] → exec .outPop s = .next s)

/-- Tier 2. R116 for the ingress queues, with the pops of R144 and R145: room and emptiness are judged on the start of the
cycle; a pop makes no room and a push does not fall through (R176). -/
def Obligations.IngressQueuesObeyFifoLaw : Prop :=
  ∀ s t : State, step s = .next t → (nextInputs s).rst = false →
    t.serq = (if (nextInputs s).decClear = false ∧ (nextInputs s).decRun = true then s.serq.tail else s.serq)
      ++ (if (nextInputs s).serPush = true ∧ s.serq.length < s.cfg.serDepth then [(nextInputs s).serData] else [])
    ∧ t.btnq = (if (nextInputs s).btnRun = true then s.btnq.tail else s.btnq)
      ++ (if (nextInputs s).btnPush = true ∧ s.btnq.length < s.cfg.btnDepth then [edgeOfBit (nextInputs s).btnEdge] else [])
    ∧ t.sig.b = (if (nextInputs s).decClear = false ∧ (nextInputs s).decRun = true then s.serq.head? else none)
    ∧ t.sig.e = (if (nextInputs s).btnRun = true then s.btnq.head? else none)

/-- Tier 2. R126, R138: `OUTQ` after a cycle. The MidiCommand that the filter makes of this cycle's event with the mask at
the start of the cycle comes first, the ButtonEvent second, each if there is room counting what was accepted before it, on
the occupancy at the start of the cycle; a pop takes the head of the start. -/
def Obligations.OutputQueueMergesInOrder : Prop :=
  ∀ s t : State, step s = .next t → (nextInputs s).rst = false →
    t.outq = (if (nextInputs s).outPop = true then s.outq.tail else s.outq)
      ++ (midiRequest s.cfg s.cmask t.sig.ev ++ pressRequest s.cfg t.sig.bev).take (s.cfg.outDepth - s.outq.length)

/-- Tier 2. R47, one cycle of it: what a queue held and what it accepted are, in order, what was popped and what it holds. -/
def Obligations.QueuesKeepOrder : Prop :=
  ∀ s t : State, step s = .next t → (nextInputs s).rst = false →
    (∃ acc, acc.Sublist (serRequest (nextInputs s)) ∧ s.serq ++ acc = t.sig.b.toList ++ t.serq)
    ∧ (∃ acc, acc.Sublist (btnRequest (nextInputs s)) ∧ s.btnq ++ acc = t.sig.e.toList ++ t.btnq)
    ∧ (∃ acc, acc.Sublist (midiRequest s.cfg s.cmask t.sig.ev ++ pressRequest s.cfg t.sig.bev)
        ∧ s.outq ++ acc = (if (nextInputs s).outPop = true then s.outq.head?.toList else []) ++ t.outq)

/-! ## The filter and the configuration -/

/-- Tier 2. R128 to R132: what passes the filter, exactly; it passes unchanged. -/
def Obligations.FilterPassesExactly : Prop :=
  ∀ (mask : BitVec 16) (modCcId : Nat) (ev : Option DecodedEvent) (m : Byte × Byte × Byte),
    filterEvent mask modCcId ev = some m ↔
      ∃ status d0 d1 : Byte, ev = some (.twoData status d0 d1) ∧ m = (status, d0, d1)
        ∧ 0x80 ≤ status.toNat ∧ status.toNat ≤ 0xEF ∧ mask.getLsbD (status.toNat % 16) = true
        ∧ (status.toNat / 16 = 0x8 ∨ status.toNat / 16 = 0x9 ∨ status.toNat / 16 = 0xE
          ∨ (status.toNat / 16 = 0xB ∧ d0.toNat = modCcId))

/-- Tier 1. R136, R137, R139, R140: a configuration write in range writes its register whole; out of range or reserved it
changes nothing. -/
def Obligations.ConfigurationWrites : Prop :=
  ∀ (s : State) (v : BitVec 32) (sel : BitVec 2),
    (v.toNat ≤ 0xFFFF → exec (.cfgMask v) s = .next { s with cmask := v.extractLsb' 0 16 })
    ∧ (0xFFFF < v.toNat → exec (.cfgMask v) s = .next s)
    ∧ (v.toNat ≤ 3 → exec (.cfgMode v) s = .next { s with cmode := v.extractLsb' 0 2 })
    ∧ (3 < v.toNat → exec (.cfgMode v) s = .next s)
    ∧ exec (.cfgRsvd sel v) s = .next s

/-- Tier 2. R135: the configuration port of a cycle, and that nothing else but reset writes `CMASK` or `CMODE`. -/
def Obligations.ConfigurationPortOfCycle : Prop :=
  ∀ s t : State, step s = .next t → (nextInputs s).rst = false →
    t.cmask = (if (nextInputs s).cfgWe = true ∧ (nextInputs s).cfgSel = 1 ∧ (nextInputs s).cfgValue.toNat ≤ 0xFFFF
      then (nextInputs s).cfgValue.extractLsb' 0 16 else s.cmask)
    ∧ t.cmode = (if (nextInputs s).cfgWe = true ∧ (nextInputs s).cfgSel = 0 ∧ (nextInputs s).cfgValue.toNat ≤ 3
      then (nextInputs s).cfgValue.extractLsb' 0 2 else s.cmode)

/-- Tier 2. R134: `CMODE` has no effect but on its own readback: two states that differ in it alone step to states that
differ in it and in `cfg_mode_q` alone (the codes raised, which no port carries, aside). -/
def Obligations.ModeHasNoEffect : Prop :=
  ∀ (s t : State) (m : BitVec 2), step s = .next t →
    ∃ u n, step { s with cmode := m } = .next u
      ∧ forgetCodes u = forgetCodes { t with cmode := n, out := { t.out with cfgModeQ := m } }

/-! ## Reset and decoder clear -/

/-- Tier 1. R170: a cycle with `rst` ignores every other input, gives every register its reset value, leaves `BUF` unchanged,
and presents no valid output. -/
def Obligations.ResetCycle : Prop :=
  ∀ s : State, legalConfig s.cfg = true → boundaryOk s = true → (nextInputs s).rst = true →
    ∃ t, step s = .next t
      ∧ t.ds = .awaitStatus ∧ t.rs = 0x00#8 ∧ t.d0 = 0x00#8 ∧ t.d1 = 0x00#8 ∧ t.idx = 0 ∧ t.buf = s.buf ∧ t.bs = .idle
      ∧ t.brem = 0 ∧ t.serq = [] ∧ t.btnq = [] ∧ t.outq = [] ∧ t.cmask = BitVec.ofNat 16 s.cfg.maskReset
      ∧ t.cmode = BitVec.ofNat 2 s.cfg.modeReset
      ∧ t.out.outValid = false ∧ t.out.decEvtValid = false ∧ t.out.sysexOvf = false ∧ t.out.btnEvtValid = false
      ∧ t.out.cfgMaskQ = s.cmask ∧ t.out.cfgModeQ = s.cmode

/-- Tier 1. R170, R172: the two resets as instructions. `RST` resets every register and queue; `DEC_CLEAR` the decoder's
registers only. Neither writes `BUF`. -/
def Obligations.ResetAndClearInstructions : Prop :=
  ∀ s : State,
    exec .decClear s = .next { s with ds := .awaitStatus, rs := 0x00, d0 := 0x00, d1 := 0x00, idx := 0 }
    ∧ exec .rst s = .next { s with
        ds := .awaitStatus, rs := 0x00, d0 := 0x00, d1 := 0x00, idx := 0, bs := .idle, brem := 0
        serq := [], btnq := [], outq := []
        cmask := BitVec.ofNat 16 s.cfg.maskReset, cmode := BitVec.ofNat 2 s.cfg.modeReset }

/-- Tier 2. R172: in a cycle with `dec_clear` and no `rst`, the decoder takes no byte, its registers are cleared, `BUF` is
unchanged, and `SERQ` keeps its bytes. -/
def Obligations.DecoderClearCycle : Prop :=
  ∀ s t : State, step s = .next t → (nextInputs s).rst = false → (nextInputs s).decClear = true →
    t.ds = .awaitStatus ∧ t.rs = 0x00#8 ∧ t.d0 = 0x00#8 ∧ t.d1 = 0x00#8 ∧ t.idx = 0 ∧ t.buf = s.buf
    ∧ t.sig.b = none ∧ t.sig.ev = none ∧ ∃ q, t.serq = s.serq ++ q

/-! ## The outputs -/

/-- Tier 2. R60, R61, R63: the taps and the readback ports of any cycle, and `out_valid` and `out_data` (R125) of a cycle
without reset. -/
def Obligations.OutputPortsOfCycle : Prop :=
  ∀ s t : State, step s = .next t →
    ((nextInputs s).rst = false → t.out.outValid = !s.outq.isEmpty ∧ ∀ w, s.outq.head? = some w → t.out.outData = w)
    ∧ t.out.cfgMaskQ = s.cmask ∧ t.out.cfgModeQ = s.cmode ∧ t.out.sysexOvf = t.sig.ovf
    ∧ (match t.sig.bev with
      | none => t.out.btnEvtValid = false ∧ t.out.btnEvtKind = 0
      | some k => t.out.btnEvtValid = true ∧ t.out.btnEvtKind = pressCode k)
    ∧ t.out.sxBuf.length = s.cfg.sysexCap
    ∧ (match t.sig.ev with
      | none => t.out.decEvtValid = false ∧ t.out.decEvtKind = 0 ∧ t.out.decEvtD0 = 0 ∧ t.out.decEvtD1 = 0 ∧ t.out.sxLen = 0
      | some (.realTime b) => t.out.decEvtValid = true ∧ t.out.decEvtKind = 1 ∧ t.out.decEvtStatus = b
        ∧ t.out.decEvtD0 = 0 ∧ t.out.decEvtD1 = 0 ∧ t.out.sxLen = 0
      | some (.oneData status d) => t.out.decEvtValid = true ∧ t.out.decEvtKind = 2 ∧ t.out.decEvtStatus = status
        ∧ status = s.rs ∧ t.out.decEvtD0 = d ∧ t.out.decEvtD1 = 0 ∧ t.out.sxLen = 0
      | some (.twoData status d0 d1) => t.out.decEvtValid = true ∧ t.out.decEvtKind = 3 ∧ t.out.decEvtStatus = status
        ∧ status = s.rs ∧ t.out.decEvtD0 = d0 ∧ t.out.decEvtD1 = d1 ∧ t.out.sxLen = 0
      | some (.sysEx _ len) => t.out.decEvtValid = true ∧ t.out.decEvtKind = 4 ∧ t.out.decEvtStatus = 0xF0
        ∧ t.out.decEvtD0 = 0 ∧ t.out.decEvtD1 = 0 ∧ len = s.idx ∧ t.out.sxLen = len
        ∧ ∀ k, k < len → t.out.sxBuf[k]? = Memory.read s.buf k)

/-- Tier 2. R59: `sysex_ovf` is 1 in exactly the cycles in which the decoder takes a data byte in `AwaitSysEx` with the
accumulator full. -/
def Obligations.OverflowPulseExactly : Prop :=
  ∀ s t : State, step s = .next t →
    (t.out.sysexOvf = true ↔ ∃ b, t.sig.b = some b ∧ isData b = true ∧ s.ds = .awaitSysEx ∧ s.cfg.sysexCap ≤ s.idx)

/-- Tier 2. R150: from a quiescent boundary a cycle that pushes nothing emits nothing and stays quiescent. -/
def Obligations.QuiescentEmitsNothing : Prop :=
  ∀ s t : State, quiescent s = true → (nextInputs s).serPush = false → (nextInputs s).btnPush = false →
    step s = .next t → t.sig.ev = none ∧ t.sig.bev = none ∧ t.sig.ovf = false ∧ quiescent t = true

/-- Tier 2. R15, R36: each register is written only by the instructions of the unit that owns it. -/
def Obligations.RegistersWrittenByTheirOwnersOnly : Prop :=
  ∀ (i : Instr) (s t : State), exec i s = .next t →
    (isByteRow i = false → i ≠ .decClear → i ≠ .rst →
      t.ds = s.ds ∧ t.rs = s.rs ∧ t.d0 = s.d0 ∧ t.d1 = s.d1 ∧ t.idx = s.idx ∧ t.buf = s.buf)
    ∧ (i ≠ .btnFall → i ≠ .btnRise → i ≠ .tick → i ≠ .rst → t.bs = s.bs ∧ t.brem = s.brem)
    ∧ ((∀ v, i ≠ .cfgMask v) → i ≠ .rst → t.cmask = s.cmask)
    ∧ ((∀ v, i ≠ .cfgMode v) → i ≠ .rst → t.cmode = s.cmode)
    ∧ ((∀ b, i ≠ .serPush b) → i ≠ .serPop → i ≠ .rst → t.serq = s.serq)
    ∧ ((∀ e, i ≠ .btnPush e) → i ≠ .btnPop → i ≠ .rst → t.btnq = s.btnq)
    ∧ ((∀ a b c, i ≠ .outPushMidi a b c) → (∀ k, i ≠ .outPushBtn k) → i ≠ .outPop → i ≠ .rst → t.outq = s.outq)

/-- Tier 2. R156: at most four `ChannelFull` in one cycle: one on `SERQ`, one on `BTNQ`, two on `OUTQ`. -/
def Obligations.AtMostFourDropsInACycle : Prop :=
  ∀ s t : State, step s = .next t → t.sig.codes.count .channelFull ≤ 4
end

