-- ==== Sys2Proof/Laws/Memory.lean ====
section
/-! SUPPORT. The accumulator's bytes: read after write, the canonical form, and reading a written prefix. -/

namespace Sys2Proof.Machine

/-- Reading what was written. -/
@[simp] theorem Memory.read_write_same (m : Memory) (i : Nat) (v : Byte) : Memory.read (Memory.write m i v) i = some v := by
  induction m with
  | nil => simp [Memory.write, Memory.read]
  | cons c rest ih =>
    obtain ⟨a, w⟩ := c
    unfold Memory.write
    split_ifs with h1 h2
    · simp [Memory.read]
    · simp [Memory.read]
    · have : a ≠ i := fun h => h2 h.symm
      simp [Memory.read, this, ih]

/-- A write leaves every other index alone. -/
@[simp] theorem Memory.read_write_other (m : Memory) {i j : Nat} (v : Byte) (h : j ≠ i) :
    Memory.read (Memory.write m i v) j = Memory.read m j := by
  induction m with
  | nil => simp [Memory.write, Memory.read, Ne.symm h]
  | cons c rest ih =>
    obtain ⟨a, w⟩ := c
    unfold Memory.write
    split_ifs with h1 h2
    · simp [Memory.read, Ne.symm h]
    · subst h2; simp [Memory.read, Ne.symm h]
    · by_cases ha : a = j <;> simp [Memory.read, ha, ih]

/-- The canonical form of a list with a first entry: the tail has it, and starts above the first index. -/
theorem Memory.wf_cons (x : Host.Cell) (rest : Memory) :
    Memory.wf (x :: rest) = true ↔ (∀ y ∈ rest.head?, x.1 < y.1) ∧ Memory.wf rest = true := by
  cases rest <;> simp [Memory.wf]

/-- A write's first index is the one written or the first index of before. -/
theorem Memory.head_write (m : Memory) (i : Nat) (v : Byte) :
    ∀ y ∈ (Memory.write m i v).head?, y.1 = i ∨ ∃ x ∈ m.head?, y.1 = x.1 := by
  cases m with
  | nil => simp [Memory.write]
  | cons c rest =>
    obtain ⟨a, w⟩ := c
    unfold Memory.write
    split_ifs <;> simp

/-- Every write keeps the canonical form. -/
theorem Memory.wf_write (m : Memory) (i : Nat) (v : Byte) (h : Memory.wf m = true) :
    Memory.wf (Memory.write m i v) = true := by
  induction m with
  | nil => rfl
  | cons c rest ih =>
    obtain ⟨a, w⟩ := c
    obtain ⟨hh, hr⟩ := (Memory.wf_cons _ _).1 h
    unfold Memory.write
    split_ifs with h1 h2
    · exact (Memory.wf_cons _ _).2 ⟨by simpa using h1, h⟩
    · subst h2; exact (Memory.wf_cons _ _).2 ⟨hh, hr⟩
    · refine (Memory.wf_cons _ _).2 ⟨fun y hy => ?_, ih hr⟩
      obtain e | ⟨x, hx, e⟩ := Memory.head_write rest i v y hy
      · simp only [e]; omega
      · simpa only [e] using hh x hx

/-- A write at an index that exists keeps every listed index existing. -/
theorem Memory.within_write (cap : Nat) (m : Memory) (i : Nat) (v : Byte) (hi : i < cap) (h : Memory.within cap m = true) :
    Memory.within cap (Memory.write m i v) = true := by
  induction m with
  | nil => simpa [Memory.write, Memory.within] using hi
  | cons c rest ih =>
    obtain ⟨a, w⟩ := c
    simp only [Memory.within, List.all_cons, Bool.and_eq_true, decide_eq_true_eq] at h ih
    have ih := ih h.2
    unfold Memory.write
    split_ifs <;> simp only [Memory.within, List.all_cons, Bool.and_eq_true, decide_eq_true_eq]
    · exact ⟨hi, h⟩
    · exact ⟨hi, h.2⟩
    · exact ⟨h.1, ih⟩

/-- Reading depends on `BUF` and its capacity alone. -/
theorem memReadPrefix_congr {s t : State} (hb : s.buf = t.buf) (hc : s.cfg = t.cfg) (n : Nat) :
    s.memReadPrefix n = t.memReadPrefix n := by
  induction n with
  | zero => rfl
  | succ n ih => simp only [State.memReadPrefix, State.memRead, ih, hb, hc]

/-- A prefix whose entries were all written reads as those entries, in order (R44). -/
theorem memReadPrefix_of_written (s : State) (n : Nat) (hn : n ≤ s.cfg.sysexCap)
    (h : ∀ k, k < n → (Memory.read s.buf k).isSome) :
    ∃ bytes, s.memReadPrefix n = .ok bytes ∧ bytes.length = n ∧ ∀ k, k < n → bytes[k]? = Memory.read s.buf k := by
  induction n with
  | zero => exact ⟨[], rfl, rfl, by simp⟩
  | succ n ih =>
    obtain ⟨bytes, hb, hl, hk⟩ := ih (by omega) fun k hk => h k (by omega)
    obtain ⟨v, hv⟩ := Option.isSome_iff_exists.1 (h n (by omega))
    have hr : s.memRead n = .ok v := by simp [State.memRead, hv]; omega
    refine ⟨bytes ++ [v], by simp [State.memReadPrefix, hb, hr], by simp [hl], fun k hkn => ?_⟩
    rcases Nat.lt_succ_iff_lt_or_eq.1 hkn with hlt | rfl
    · rw [List.getElem?_append_left (by omega), hk k hlt]
    · rw [List.getElem?_append_right (by omega), hl]; simp [hv]

/-- A prefix that reads was written throughout, and its indices exist. -/
theorem written_of_memReadPrefix (s : State) (n : Nat) (bytes : List Byte) (h : s.memReadPrefix n = .ok bytes) :
    bytes.length = n ∧ ∀ k, k < n → k < s.cfg.sysexCap ∧ Memory.read s.buf k = bytes[k]? ∧ (Memory.read s.buf k).isSome := by
  induction n generalizing bytes with
  | zero => simp [State.memReadPrefix] at h; simp [← h]
  | succ n ih =>
    simp only [State.memReadPrefix] at h
    split at h
    · cases h
    · rename_i bs hb
      split at h
      · cases h
      · rename_i v hv
        cases h
        obtain ⟨hl, hk⟩ := ih bs hb
        refine ⟨by simp [hl], fun k hkn => ?_⟩
        rcases Nat.lt_succ_iff_lt_or_eq.1 hkn with hlt | rfl
        · rw [List.getElem?_append_left (by omega)]; exact hk k hlt
        · rw [List.getElem?_append_right (by omega), hl]
          simp only [State.memRead] at hv
          split at hv
          · split at hv
            · cases hv; rename_i hc _ hr; simp [hc, hr]
            · cases hv
          · cases hv

/-- The faults a prefix read can end in. -/
theorem memReadPrefix_error (s : State) (n : Nat) (f : Fault) (h : s.memReadPrefix n = .error f) :
    f = .bufUnwritten ∨ f = .bufOutOfRange := by
  induction n with
  | zero => cases h
  | succ n ih =>
    simp only [State.memReadPrefix] at h
    split at h
    · cases h; exact ih ‹_›
    · split at h
      · cases h
        rename_i hv
        simp only [State.memRead] at hv
        split at hv
        · split at hv <;> cases hv; exact .inl rfl
        · cases hv; exact .inr rfl
      · cases h

end Sys2Proof.Machine
end

