-- ==== Sys2Proof/Laws/State.lean ====
section
/-! SUPPORT. One lemma per field for each named update of the state, true by rfl: a proof about them unfolds no record update. -/

namespace Sys2Proof.Machine

/-! ## `State.raise` -/

@[simp] theorem State.raise_ds (c : ErrorCode) (s : State) : (s.raise c).ds = s.ds := rfl
@[simp] theorem State.raise_rs (c : ErrorCode) (s : State) : (s.raise c).rs = s.rs := rfl
@[simp] theorem State.raise_d0 (c : ErrorCode) (s : State) : (s.raise c).d0 = s.d0 := rfl
@[simp] theorem State.raise_d1 (c : ErrorCode) (s : State) : (s.raise c).d1 = s.d1 := rfl
@[simp] theorem State.raise_idx (c : ErrorCode) (s : State) : (s.raise c).idx = s.idx := rfl
@[simp] theorem State.raise_buf (c : ErrorCode) (s : State) : (s.raise c).buf = s.buf := rfl
@[simp] theorem State.raise_bs (c : ErrorCode) (s : State) : (s.raise c).bs = s.bs := rfl
@[simp] theorem State.raise_brem (c : ErrorCode) (s : State) : (s.raise c).brem = s.brem := rfl
@[simp] theorem State.raise_serq (c : ErrorCode) (s : State) : (s.raise c).serq = s.serq := rfl
@[simp] theorem State.raise_btnq (c : ErrorCode) (s : State) : (s.raise c).btnq = s.btnq := rfl
@[simp] theorem State.raise_outq (c : ErrorCode) (s : State) : (s.raise c).outq = s.outq := rfl
@[simp] theorem State.raise_cmask (c : ErrorCode) (s : State) : (s.raise c).cmask = s.cmask := rfl
@[simp] theorem State.raise_cmode (c : ErrorCode) (s : State) : (s.raise c).cmode = s.cmode := rfl
@[simp] theorem State.raise_cfg (c : ErrorCode) (s : State) : (s.raise c).cfg = s.cfg := rfl
@[simp] theorem State.raise_inputs (c : ErrorCode) (s : State) : (s.raise c).inputs = s.inputs := rfl
@[simp] theorem State.raise_out (c : ErrorCode) (s : State) : (s.raise c).out = s.out := rfl
@[simp] theorem State.raise_freeIdx (c : ErrorCode) (s : State) : (s.raise c).freeIdx = s.freeIdx := rfl
@[simp] theorem State.raise_sig_b (c : ErrorCode) (s : State) : (s.raise c).sig.b = s.sig.b := rfl
@[simp] theorem State.raise_sig_e (c : ErrorCode) (s : State) : (s.raise c).sig.e = s.sig.e := rfl
@[simp] theorem State.raise_sig_ev (c : ErrorCode) (s : State) : (s.raise c).sig.ev = s.sig.ev := rfl
@[simp] theorem State.raise_sig_ovf (c : ErrorCode) (s : State) : (s.raise c).sig.ovf = s.sig.ovf := rfl
@[simp] theorem State.raise_sig_bev (c : ErrorCode) (s : State) : (s.raise c).sig.bev = s.sig.bev := rfl
@[simp] theorem State.raise_sig_codes (c : ErrorCode) (s : State) : (s.raise c).sig.codes = s.sig.codes ++ [c] := rfl

/-! ## `State.emitEvent` -/

@[simp] theorem State.emitEvent_ds (e : DecodedEvent) (s : State) : (s.emitEvent e).ds = s.ds := rfl
@[simp] theorem State.emitEvent_rs (e : DecodedEvent) (s : State) : (s.emitEvent e).rs = s.rs := rfl
@[simp] theorem State.emitEvent_d0 (e : DecodedEvent) (s : State) : (s.emitEvent e).d0 = s.d0 := rfl
@[simp] theorem State.emitEvent_d1 (e : DecodedEvent) (s : State) : (s.emitEvent e).d1 = s.d1 := rfl
@[simp] theorem State.emitEvent_idx (e : DecodedEvent) (s : State) : (s.emitEvent e).idx = s.idx := rfl
@[simp] theorem State.emitEvent_buf (e : DecodedEvent) (s : State) : (s.emitEvent e).buf = s.buf := rfl
@[simp] theorem State.emitEvent_bs (e : DecodedEvent) (s : State) : (s.emitEvent e).bs = s.bs := rfl
@[simp] theorem State.emitEvent_brem (e : DecodedEvent) (s : State) : (s.emitEvent e).brem = s.brem := rfl
@[simp] theorem State.emitEvent_serq (e : DecodedEvent) (s : State) : (s.emitEvent e).serq = s.serq := rfl
@[simp] theorem State.emitEvent_btnq (e : DecodedEvent) (s : State) : (s.emitEvent e).btnq = s.btnq := rfl
@[simp] theorem State.emitEvent_outq (e : DecodedEvent) (s : State) : (s.emitEvent e).outq = s.outq := rfl
@[simp] theorem State.emitEvent_cmask (e : DecodedEvent) (s : State) : (s.emitEvent e).cmask = s.cmask := rfl
@[simp] theorem State.emitEvent_cmode (e : DecodedEvent) (s : State) : (s.emitEvent e).cmode = s.cmode := rfl
@[simp] theorem State.emitEvent_cfg (e : DecodedEvent) (s : State) : (s.emitEvent e).cfg = s.cfg := rfl
@[simp] theorem State.emitEvent_inputs (e : DecodedEvent) (s : State) : (s.emitEvent e).inputs = s.inputs := rfl
@[simp] theorem State.emitEvent_out (e : DecodedEvent) (s : State) : (s.emitEvent e).out = s.out := rfl
@[simp] theorem State.emitEvent_freeIdx (e : DecodedEvent) (s : State) : (s.emitEvent e).freeIdx = s.freeIdx := rfl
@[simp] theorem State.emitEvent_sig_b (e : DecodedEvent) (s : State) : (s.emitEvent e).sig.b = s.sig.b := rfl
@[simp] theorem State.emitEvent_sig_e (e : DecodedEvent) (s : State) : (s.emitEvent e).sig.e = s.sig.e := rfl
@[simp] theorem State.emitEvent_sig_ev (e : DecodedEvent) (s : State) : (s.emitEvent e).sig.ev = some e := rfl
@[simp] theorem State.emitEvent_sig_ovf (e : DecodedEvent) (s : State) : (s.emitEvent e).sig.ovf = s.sig.ovf := rfl
@[simp] theorem State.emitEvent_sig_bev (e : DecodedEvent) (s : State) : (s.emitEvent e).sig.bev = s.sig.bev := rfl
@[simp] theorem State.emitEvent_sig_codes (e : DecodedEvent) (s : State) : (s.emitEvent e).sig.codes = s.sig.codes := rfl

/-! ## `State.emitOverflow` -/

@[simp] theorem State.emitOverflow_ds (s : State) : (s.emitOverflow).ds = s.ds := rfl
@[simp] theorem State.emitOverflow_rs (s : State) : (s.emitOverflow).rs = s.rs := rfl
@[simp] theorem State.emitOverflow_d0 (s : State) : (s.emitOverflow).d0 = s.d0 := rfl
@[simp] theorem State.emitOverflow_d1 (s : State) : (s.emitOverflow).d1 = s.d1 := rfl
@[simp] theorem State.emitOverflow_idx (s : State) : (s.emitOverflow).idx = s.idx := rfl
@[simp] theorem State.emitOverflow_buf (s : State) : (s.emitOverflow).buf = s.buf := rfl
@[simp] theorem State.emitOverflow_bs (s : State) : (s.emitOverflow).bs = s.bs := rfl
@[simp] theorem State.emitOverflow_brem (s : State) : (s.emitOverflow).brem = s.brem := rfl
@[simp] theorem State.emitOverflow_serq (s : State) : (s.emitOverflow).serq = s.serq := rfl
@[simp] theorem State.emitOverflow_btnq (s : State) : (s.emitOverflow).btnq = s.btnq := rfl
@[simp] theorem State.emitOverflow_outq (s : State) : (s.emitOverflow).outq = s.outq := rfl
@[simp] theorem State.emitOverflow_cmask (s : State) : (s.emitOverflow).cmask = s.cmask := rfl
@[simp] theorem State.emitOverflow_cmode (s : State) : (s.emitOverflow).cmode = s.cmode := rfl
@[simp] theorem State.emitOverflow_cfg (s : State) : (s.emitOverflow).cfg = s.cfg := rfl
@[simp] theorem State.emitOverflow_inputs (s : State) : (s.emitOverflow).inputs = s.inputs := rfl
@[simp] theorem State.emitOverflow_out (s : State) : (s.emitOverflow).out = s.out := rfl
@[simp] theorem State.emitOverflow_freeIdx (s : State) : (s.emitOverflow).freeIdx = s.freeIdx := rfl
@[simp] theorem State.emitOverflow_sig_b (s : State) : (s.emitOverflow).sig.b = s.sig.b := rfl
@[simp] theorem State.emitOverflow_sig_e (s : State) : (s.emitOverflow).sig.e = s.sig.e := rfl
@[simp] theorem State.emitOverflow_sig_ev (s : State) : (s.emitOverflow).sig.ev = s.sig.ev := rfl
@[simp] theorem State.emitOverflow_sig_ovf (s : State) : (s.emitOverflow).sig.ovf = true := rfl
@[simp] theorem State.emitOverflow_sig_bev (s : State) : (s.emitOverflow).sig.bev = s.sig.bev := rfl
@[simp] theorem State.emitOverflow_sig_codes (s : State) : (s.emitOverflow).sig.codes = s.sig.codes := rfl

/-! ## `State.emitPress` -/

@[simp] theorem State.emitPress_ds (k : PressKind) (s : State) : (s.emitPress k).ds = s.ds := rfl
@[simp] theorem State.emitPress_rs (k : PressKind) (s : State) : (s.emitPress k).rs = s.rs := rfl
@[simp] theorem State.emitPress_d0 (k : PressKind) (s : State) : (s.emitPress k).d0 = s.d0 := rfl
@[simp] theorem State.emitPress_d1 (k : PressKind) (s : State) : (s.emitPress k).d1 = s.d1 := rfl
@[simp] theorem State.emitPress_idx (k : PressKind) (s : State) : (s.emitPress k).idx = s.idx := rfl
@[simp] theorem State.emitPress_buf (k : PressKind) (s : State) : (s.emitPress k).buf = s.buf := rfl
@[simp] theorem State.emitPress_bs (k : PressKind) (s : State) : (s.emitPress k).bs = s.bs := rfl
@[simp] theorem State.emitPress_brem (k : PressKind) (s : State) : (s.emitPress k).brem = s.brem := rfl
@[simp] theorem State.emitPress_serq (k : PressKind) (s : State) : (s.emitPress k).serq = s.serq := rfl
@[simp] theorem State.emitPress_btnq (k : PressKind) (s : State) : (s.emitPress k).btnq = s.btnq := rfl
@[simp] theorem State.emitPress_outq (k : PressKind) (s : State) : (s.emitPress k).outq = s.outq := rfl
@[simp] theorem State.emitPress_cmask (k : PressKind) (s : State) : (s.emitPress k).cmask = s.cmask := rfl
@[simp] theorem State.emitPress_cmode (k : PressKind) (s : State) : (s.emitPress k).cmode = s.cmode := rfl
@[simp] theorem State.emitPress_cfg (k : PressKind) (s : State) : (s.emitPress k).cfg = s.cfg := rfl
@[simp] theorem State.emitPress_inputs (k : PressKind) (s : State) : (s.emitPress k).inputs = s.inputs := rfl
@[simp] theorem State.emitPress_out (k : PressKind) (s : State) : (s.emitPress k).out = s.out := rfl
@[simp] theorem State.emitPress_freeIdx (k : PressKind) (s : State) : (s.emitPress k).freeIdx = s.freeIdx := rfl
@[simp] theorem State.emitPress_sig_b (k : PressKind) (s : State) : (s.emitPress k).sig.b = s.sig.b := rfl
@[simp] theorem State.emitPress_sig_e (k : PressKind) (s : State) : (s.emitPress k).sig.e = s.sig.e := rfl
@[simp] theorem State.emitPress_sig_ev (k : PressKind) (s : State) : (s.emitPress k).sig.ev = s.sig.ev := rfl
@[simp] theorem State.emitPress_sig_ovf (k : PressKind) (s : State) : (s.emitPress k).sig.ovf = s.sig.ovf := rfl
@[simp] theorem State.emitPress_sig_bev (k : PressKind) (s : State) : (s.emitPress k).sig.bev = some k := rfl
@[simp] theorem State.emitPress_sig_codes (k : PressKind) (s : State) : (s.emitPress k).sig.codes = s.sig.codes := rfl

/-! ## `beginFeed` -/

@[simp] theorem beginFeed_ds (s : State) : (beginFeed s).ds = s.ds := rfl
@[simp] theorem beginFeed_rs (s : State) : (beginFeed s).rs = s.rs := rfl
@[simp] theorem beginFeed_d0 (s : State) : (beginFeed s).d0 = s.d0 := rfl
@[simp] theorem beginFeed_d1 (s : State) : (beginFeed s).d1 = s.d1 := rfl
@[simp] theorem beginFeed_idx (s : State) : (beginFeed s).idx = s.idx := rfl
@[simp] theorem beginFeed_buf (s : State) : (beginFeed s).buf = s.buf := rfl
@[simp] theorem beginFeed_bs (s : State) : (beginFeed s).bs = s.bs := rfl
@[simp] theorem beginFeed_brem (s : State) : (beginFeed s).brem = s.brem := rfl
@[simp] theorem beginFeed_serq (s : State) : (beginFeed s).serq = s.serq := rfl
@[simp] theorem beginFeed_btnq (s : State) : (beginFeed s).btnq = s.btnq := rfl
@[simp] theorem beginFeed_outq (s : State) : (beginFeed s).outq = s.outq := rfl
@[simp] theorem beginFeed_cmask (s : State) : (beginFeed s).cmask = s.cmask := rfl
@[simp] theorem beginFeed_cmode (s : State) : (beginFeed s).cmode = s.cmode := rfl
@[simp] theorem beginFeed_cfg (s : State) : (beginFeed s).cfg = s.cfg := rfl
@[simp] theorem beginFeed_inputs (s : State) : (beginFeed s).inputs = s.inputs := rfl
@[simp] theorem beginFeed_out (s : State) : (beginFeed s).out = s.out := rfl
@[simp] theorem beginFeed_freeIdx (s : State) : (beginFeed s).freeIdx = s.freeIdx := rfl
@[simp] theorem beginFeed_sig_b (s : State) : (beginFeed s).sig.b = s.sig.b := rfl
@[simp] theorem beginFeed_sig_e (s : State) : (beginFeed s).sig.e = s.sig.e := rfl
@[simp] theorem beginFeed_sig_ev (s : State) : (beginFeed s).sig.ev = none := rfl
@[simp] theorem beginFeed_sig_ovf (s : State) : (beginFeed s).sig.ovf = false := rfl
@[simp] theorem beginFeed_sig_bev (s : State) : (beginFeed s).sig.bev = s.sig.bev := rfl
@[simp] theorem beginFeed_sig_codes (s : State) : (beginFeed s).sig.codes = s.sig.codes := rfl

/-! ## `beginCycle` -/

@[simp] theorem beginCycle_ds (s : State) : (beginCycle s).ds = s.ds := rfl
@[simp] theorem beginCycle_rs (s : State) : (beginCycle s).rs = s.rs := rfl
@[simp] theorem beginCycle_d0 (s : State) : (beginCycle s).d0 = s.d0 := rfl
@[simp] theorem beginCycle_d1 (s : State) : (beginCycle s).d1 = s.d1 := rfl
@[simp] theorem beginCycle_idx (s : State) : (beginCycle s).idx = s.idx := rfl
@[simp] theorem beginCycle_buf (s : State) : (beginCycle s).buf = s.buf := rfl
@[simp] theorem beginCycle_bs (s : State) : (beginCycle s).bs = s.bs := rfl
@[simp] theorem beginCycle_brem (s : State) : (beginCycle s).brem = s.brem := rfl
@[simp] theorem beginCycle_serq (s : State) : (beginCycle s).serq = s.serq := rfl
@[simp] theorem beginCycle_btnq (s : State) : (beginCycle s).btnq = s.btnq := rfl
@[simp] theorem beginCycle_outq (s : State) : (beginCycle s).outq = s.outq := rfl
@[simp] theorem beginCycle_cmask (s : State) : (beginCycle s).cmask = s.cmask := rfl
@[simp] theorem beginCycle_cmode (s : State) : (beginCycle s).cmode = s.cmode := rfl
@[simp] theorem beginCycle_cfg (s : State) : (beginCycle s).cfg = s.cfg := rfl
@[simp] theorem beginCycle_inputs (s : State) : (beginCycle s).inputs = s.inputs.tail := rfl
@[simp] theorem beginCycle_out (s : State) : (beginCycle s).out = s.out := rfl
@[simp] theorem beginCycle_freeIdx (s : State) : (beginCycle s).freeIdx = s.freeIdx + 1 := rfl
@[simp] theorem beginCycle_sig (s : State) : (beginCycle s).sig = Signals.quiet := rfl

/-! ## `clearDecoder` -/

@[simp] theorem clearDecoder_ds (s : State) : (clearDecoder s).ds = .awaitStatus := rfl
@[simp] theorem clearDecoder_rs (s : State) : (clearDecoder s).rs = 0x00 := rfl
@[simp] theorem clearDecoder_d0 (s : State) : (clearDecoder s).d0 = 0x00 := rfl
@[simp] theorem clearDecoder_d1 (s : State) : (clearDecoder s).d1 = 0x00 := rfl
@[simp] theorem clearDecoder_idx (s : State) : (clearDecoder s).idx = 0 := rfl
@[simp] theorem clearDecoder_buf (s : State) : (clearDecoder s).buf = s.buf := rfl
@[simp] theorem clearDecoder_bs (s : State) : (clearDecoder s).bs = s.bs := rfl
@[simp] theorem clearDecoder_brem (s : State) : (clearDecoder s).brem = s.brem := rfl
@[simp] theorem clearDecoder_serq (s : State) : (clearDecoder s).serq = s.serq := rfl
@[simp] theorem clearDecoder_btnq (s : State) : (clearDecoder s).btnq = s.btnq := rfl
@[simp] theorem clearDecoder_outq (s : State) : (clearDecoder s).outq = s.outq := rfl
@[simp] theorem clearDecoder_cmask (s : State) : (clearDecoder s).cmask = s.cmask := rfl
@[simp] theorem clearDecoder_cmode (s : State) : (clearDecoder s).cmode = s.cmode := rfl
@[simp] theorem clearDecoder_cfg (s : State) : (clearDecoder s).cfg = s.cfg := rfl
@[simp] theorem clearDecoder_inputs (s : State) : (clearDecoder s).inputs = s.inputs := rfl
@[simp] theorem clearDecoder_out (s : State) : (clearDecoder s).out = s.out := rfl
@[simp] theorem clearDecoder_freeIdx (s : State) : (clearDecoder s).freeIdx = s.freeIdx := rfl
@[simp] theorem clearDecoder_sig (s : State) : (clearDecoder s).sig = s.sig := rfl

/-! ## The quiet wires -/

@[simp] theorem quiet_b : Signals.quiet.b = none := rfl
@[simp] theorem quiet_e : Signals.quiet.e = none := rfl
@[simp] theorem quiet_ev : Signals.quiet.ev = none := rfl
@[simp] theorem quiet_ovf : Signals.quiet.ovf = false := rfl
@[simp] theorem quiet_bev : Signals.quiet.bev = none := rfl
@[simp] theorem quiet_codes : Signals.quiet.codes = [] := rfl

/-! ## `andThen` -/

@[simp] theorem andThen_next (s : State) (f : State → Result) : andThen (.next s) f = f s := rfl
@[simp] theorem andThen_fault (x : Fault) (f : State → Result) : andThen (.fault x) f = .fault x := rfl
@[simp] theorem andThen_refused (x : Refusal) (f : State → Result) : andThen (.refused x) f = .refused x := rfl

/-- What a chain that ends in a next state says: both its parts did. -/
theorem andThen_eq_next {r : Result} {f : State → Result} {t : State} :
    andThen r f = .next t ↔ ∃ s, r = .next s ∧ f s = .next t := by
  cases r <;> simp [andThen]

end Sys2Proof.Machine
end

