-- ==== Sys2Proof/Laws/Decoder.lean ====
section
/-! SUPPORT. What one feed can do: the byte sets, one equation of `feed` per state and class of byte, and the inversion lemma
that says once everything a feed that ends in a next state did. -/

namespace Sys2Proof.Machine

/-! ## The byte sets (R12) -/

theorem isData_of_realTime : ∀ b : Byte, isRealTime b = true → isData b = false := by decide

theorem not_realTime_of_data : ∀ b : Byte, isData b = true → isRealTime b = false := by decide

theorem one_is_status : ∀ b : Byte, isOne b = true →
    isData b = false ∧ isRealTime b = false ∧ isTwo b = false ∧ isSysExStart b = false ∧ b ≠ 0xF7 := by decide

theorem two_is_status : ∀ b : Byte, isTwo b = true →
    isData b = false ∧ isRealTime b = false ∧ isOne b = false ∧ isSysExStart b = false ∧ b ≠ 0xF7 := by decide

theorem unrec_is_status : ∀ b : Byte, isUnrec b = true →
    isData b = false ∧ isRealTime b = false ∧ isOne b = false ∧ isTwo b = false ∧ isSysExStart b = false := by decide

theorem isData_dataByteOf : ∀ v : BitVec 7, isData (dataByteOf v) = true := by decide

theorem isTwo_statusByte : ∀ ch : BitVec 4, isTwo (statusByte 0x8 ch) = true ∧ isTwo (statusByte 0x9 ch) = true
    ∧ isTwo (statusByte 0xA ch) = true ∧ isTwo (statusByte 0xB ch) = true ∧ isTwo (statusByte 0xE ch) = true := by decide

theorem isOne_statusByte : ∀ ch : BitVec 4, isOne (statusByte 0xC ch) = true ∧ isOne (statusByte 0xD ch) = true := by decide

/-! ## A byte instruction is the feed of its byte -/

/-- A row encoded as a byte means the feed of that byte. -/
theorem exec_eq_feed (cfg : Config) {i : Instr} {b : Byte} (h : encode cfg i = .midiByte b) (s : State) :
    exec i s = feed b s := by
  cases i <;> simp only [encode, Code.midiByte.injEq, reduceCtorEq] at h <;> subst h <;> rfl

/-- The encoder gives back the byte that was decoded. -/
theorem encode_decodeByte (cfg : Config) : ∀ b : Byte, encode cfg (decodeByte b) = .midiByte b := by
  have h : ∀ b : Byte, encode Config.default (decodeByte b) = .midiByte b := by decide
  intro b
  rw [← h b]
  cases hb : decodeByte b <;> first | rfl | (have := h b; rw [hb] at this; simp [encode] at this)

/-- The step runs a byte taken from `SERQ` as its feed (R144). -/
theorem exec_decodeByte (b : Byte) (s : State) : exec (decodeByte b) s = feed b s :=
  exec_eq_feed s.cfg (encode_decodeByte s.cfg b) s

/-! ## One equation per state and class of byte -/

/-- R69. -/
theorem feed_realTime {b : Byte} (h : isRealTime b = true) (s : State) :
    feed b s = .next ((beginFeed s).emitEvent (.realTime b)) := by
  simp [feed, h]

theorem feed_not_realTime {b : Byte} (h : isRealTime b = false) (s : State) :
    feed b s = dispatchLoop 2 (.latched s.ds) b (beginFeed s) := by
  simp [feed, h]

/-- R72. -/
theorem feed_data_awaitStatus {b : Byte} (h : isData b = true) {s : State} (hs : s.ds = .awaitStatus) :
    feed b s = .next (beginFeed s) := by
  simp [feed_not_realTime (not_realTime_of_data b h), hs, dispatchLoop, dispatch, h]

/-- R73. -/
theorem feed_data_awaitFirstData {b : Byte} (h : isData b = true) {s : State} (hs : s.ds = .awaitFirstData) :
    feed b s = .next { beginFeed s with d0 := b, ds := .awaitSecondData } := by
  simp [feed_not_realTime (not_realTime_of_data b h), hs, dispatchLoop, dispatch, h]

/-- R74. -/
theorem feed_data_awaitSecondData {b : Byte} (h : isData b = true) {s : State} (hs : s.ds = .awaitSecondData) :
    feed b s = .next { ((beginFeed s).emitEvent (.twoData s.rs s.d0 b)) with d1 := b, ds := .awaitFirstData } := by
  simp [feed_not_realTime (not_realTime_of_data b h), hs, dispatchLoop, dispatch, h]

/-- R75. -/
theorem feed_data_awaitSingleData {b : Byte} (h : isData b = true) {s : State} (hs : s.ds = .awaitSingleData) :
    feed b s = .next ((beginFeed s).emitEvent (.oneData s.rs b)) := by
  simp [feed_not_realTime (not_realTime_of_data b h), hs, dispatchLoop, dispatch, h]

/-- R76, the append. -/
theorem feed_data_append {b : Byte} (h : isData b = true) {s : State} (hs : s.ds = .awaitSysEx) (hi : s.idx < s.cfg.sysexCap) :
    feed b s = .next { beginFeed s with buf := Memory.write s.buf s.idx b, idx := s.idx + 1 } := by
  simp [feed_not_realTime (not_realTime_of_data b h), hs, dispatchLoop, dispatch, h, sysExData, hi, State.memWrite]

/-- R76, the overflow. -/
theorem feed_data_overflow {b : Byte} (h : isData b = true) {s : State} (hs : s.ds = .awaitSysEx) (hi : ¬ s.idx < s.cfg.sysexCap) :
    feed b s = .next { ((beginFeed s).emitOverflow.raise .sysExOverflow) with idx := 0, ds := .awaitStatus } := by
  simp [feed_not_realTime (not_realTime_of_data b h), hs, dispatchLoop, dispatch, h, sysExData, hi]

/-- R71, R72, R78: a status byte that ends no SysEx is classified after one more dispatch. -/
theorem feed_status {b : Byte} (hd : isData b = false) (hr : isRealTime b = false) {s : State}
    (hs : s.ds ≠ .awaitSysEx ∨ b ≠ 0xF7) : feed b s = .next (classifyStatus b ((beginFeed s).raise .reprocess)) := by
  rw [feed_not_realTime hr]
  cases h : s.ds <;> simp_all [dispatchLoop, dispatch, reprocess, sysExStatus]

/-- R77: 0xF7 in `AwaitSysEx` over written bytes. -/
theorem feed_sysExEnd {s : State} (hs : s.ds = .awaitSysEx) {bytes : List Byte} (hb : s.memReadPrefix s.idx = .ok bytes) :
    feed 0xF7 s = .next (classifyStatus 0xF7 (((beginFeed s).emitEvent (.sysEx bytes s.idx)).raise .reprocess)) := by
  have hp := memReadPrefix_congr (s := beginFeed s) (t := s) rfl rfl
  rw [feed_not_realTime (by decide), hs]
  simp [dispatchLoop, dispatch, isData, sysExStatus, hp, hb, reprocess]

/-- 0xF7 in `AwaitSysEx` over a byte that was not written faults. -/
theorem feed_sysExEnd_fault {s : State} (hs : s.ds = .awaitSysEx) {f : Fault} (hb : s.memReadPrefix s.idx = .error f) :
    feed 0xF7 s = .fault f := by
  have hp := memReadPrefix_congr (s := beginFeed s) (t := s) rfl rfl
  rw [feed_not_realTime (by decide), hs]
  simp [dispatchLoop, dispatch, isData, sysExStatus, hp, hb]

/-- Everything a feed that ends in a next state can have done (R68). -/
theorem feed_cases {b : Byte} {s t : State} (h : feed b s = .next t) :
    (isRealTime b = true ∧ t = (beginFeed s).emitEvent (.realTime b))
    ∨ (isData b = true ∧ s.ds = .awaitStatus ∧ t = beginFeed s)
    ∨ (isData b = true ∧ s.ds = .awaitFirstData ∧ t = { beginFeed s with d0 := b, ds := .awaitSecondData })
    ∨ (isData b = true ∧ s.ds = .awaitSecondData
        ∧ t = { ((beginFeed s).emitEvent (.twoData s.rs s.d0 b)) with d1 := b, ds := .awaitFirstData })
    ∨ (isData b = true ∧ s.ds = .awaitSingleData ∧ t = (beginFeed s).emitEvent (.oneData s.rs b))
    ∨ (isData b = true ∧ s.ds = .awaitSysEx ∧ s.idx < s.cfg.sysexCap
        ∧ t = { beginFeed s with buf := Memory.write s.buf s.idx b, idx := s.idx + 1 })
    ∨ (isData b = true ∧ s.ds = .awaitSysEx ∧ ¬ s.idx < s.cfg.sysexCap
        ∧ t = { ((beginFeed s).emitOverflow.raise .sysExOverflow) with idx := 0, ds := .awaitStatus })
    ∨ (isData b = false ∧ isRealTime b = false ∧ (s.ds ≠ .awaitSysEx ∨ b ≠ 0xF7)
        ∧ t = classifyStatus b ((beginFeed s).raise .reprocess))
    ∨ (b = 0xF7 ∧ s.ds = .awaitSysEx ∧ ∃ bytes, s.memReadPrefix s.idx = .ok bytes
        ∧ t = classifyStatus 0xF7 (((beginFeed s).emitEvent (.sysEx bytes s.idx)).raise .reprocess)) := by
  by_cases hr : isRealTime b = true
  · rw [feed_realTime hr] at h; cases h; exact .inl ⟨hr, rfl⟩
  have hr : isRealTime b = false := by simpa using hr
  by_cases hd : isData b = true
  · cases hs : s.ds with
    | awaitStatus => rw [feed_data_awaitStatus hd hs] at h; cases h; simp [hd]
    | awaitFirstData => rw [feed_data_awaitFirstData hd hs] at h; cases h; simp [hd]
    | awaitSecondData => rw [feed_data_awaitSecondData hd hs] at h; cases h; simp [hd]
    | awaitSingleData => rw [feed_data_awaitSingleData hd hs] at h; cases h; simp [hd]
    | awaitSysEx =>
      by_cases hi : s.idx < s.cfg.sysexCap
      · rw [feed_data_append hd hs hi] at h; cases h; simp [hd, hi]
      · rw [feed_data_overflow hd hs hi] at h; cases h; simp [hd, hi]
  · have hd : isData b = false := by simpa using hd
    by_cases hs : s.ds ≠ .awaitSysEx ∨ b ≠ 0xF7
    · rw [feed_status hd hr hs] at h; cases h
      exact .inr (.inr (.inr (.inr (.inr (.inr (.inr (.inl ⟨hd, hr, hs, rfl⟩)))))))
    · push Not at hs
      obtain ⟨hs, rfl⟩ := hs
      cases hb : s.memReadPrefix s.idx with
      | ok bytes =>
        rw [feed_sysExEnd hs hb] at h; cases h
        exact .inr (.inr (.inr (.inr (.inr (.inr (.inr (.inr ⟨rfl, hs, bytes, rfl, rfl⟩)))))))
      | error f => rw [feed_sysExEnd_fault hs hb] at h; cases h

/-- The only stop of a feed: 0xF7 in `AwaitSysEx` over a byte that cannot be read. -/
theorem feed_next_or_unread (b : Byte) (s : State) :
    (∃ t, feed b s = .next t) ∨ (b = 0xF7 ∧ s.ds = .awaitSysEx ∧ ∃ f, s.memReadPrefix s.idx = .error f ∧ feed b s = .fault f) := by
  by_cases hr : isRealTime b = true
  · exact .inl ⟨_, feed_realTime hr s⟩
  have hr : isRealTime b = false := by simpa using hr
  by_cases hd : isData b = true
  · cases hs : s.ds with
    | awaitStatus => exact .inl ⟨_, feed_data_awaitStatus hd hs⟩
    | awaitFirstData => exact .inl ⟨_, feed_data_awaitFirstData hd hs⟩
    | awaitSecondData => exact .inl ⟨_, feed_data_awaitSecondData hd hs⟩
    | awaitSingleData => exact .inl ⟨_, feed_data_awaitSingleData hd hs⟩
    | awaitSysEx =>
      by_cases hi : s.idx < s.cfg.sysexCap
      · exact .inl ⟨_, feed_data_append hd hs hi⟩
      · exact .inl ⟨_, feed_data_overflow hd hs hi⟩
  · have hd : isData b = false := by simpa using hd
    by_cases hs : s.ds ≠ .awaitSysEx ∨ b ≠ 0xF7
    · exact .inl ⟨_, feed_status hd hr hs⟩
    · push Not at hs
      obtain ⟨hs, rfl⟩ := hs
      cases hb : s.memReadPrefix s.idx with
      | ok bytes => exact .inl ⟨_, feed_sysExEnd hs hb⟩
      | error f => exact .inr ⟨rfl, hs, f, rfl, feed_sysExEnd_fault hs hb⟩

/-! ## The classification of a status byte (R79) -/

theorem classifyStatus_one {b : Byte} (h : isOne b = true) (s : State) :
    classifyStatus b s = { s with rs := b, ds := .awaitSingleData } := by
  simp [classifyStatus, h]

theorem classifyStatus_two {b : Byte} (h : isTwo b = true) (s : State) :
    classifyStatus b s = { s with rs := b, ds := .awaitFirstData } := by
  simp [classifyStatus, h, (two_is_status b h).2.2.1]

theorem classifyStatus_start (s : State) : classifyStatus 0xF0 s = { s with rs := 0xF0, idx := 0, ds := .awaitSysEx } := rfl

theorem classifyStatus_unrec {b : Byte} (h : isUnrec b = true) (s : State) :
    classifyStatus b s = { s.raise (.unrecognizedStatus b) with ds := .awaitStatus } := by
  simp [classifyStatus, unrec_is_status b h]

/-- A status byte that is not real-time is classified in exactly one way. -/
theorem classifyStatus_cases {b : Byte} (hd : isData b = false) (hr : isRealTime b = false) (s : State) :
    (isOne b = true ∧ classifyStatus b s = { s with rs := b, ds := .awaitSingleData })
    ∨ (isTwo b = true ∧ classifyStatus b s = { s with rs := b, ds := .awaitFirstData })
    ∨ (b = 0xF0 ∧ classifyStatus b s = { s with rs := b, idx := 0, ds := .awaitSysEx })
    ∨ (isUnrec b = true ∧ classifyStatus b s = { s.raise (.unrecognizedStatus b) with ds := .awaitStatus }) := by
  by_cases h1 : isOne b = true
  · exact .inl ⟨h1, classifyStatus_one h1 s⟩
  by_cases h2 : isTwo b = true
  · exact .inr (.inl ⟨h2, classifyStatus_two h2 s⟩)
  by_cases h3 : b = 0xF0
  · subst h3; exact .inr (.inr (.inl ⟨rfl, rfl⟩))
  have hu : isUnrec b = true := by simp_all [isUnrec, isSysExStart]
  exact .inr (.inr (.inr ⟨hu, classifyStatus_unrec hu s⟩))

end Sys2Proof.Machine
end

