-- ==== Sys2Proof/Laws/Agrees.lean ====
section
/-! SUPPORT. What a feed depends on: two states that agree on the decoder's registers, and on the bytes of a SysEx in progress,
give the same outputs and end in states that agree again, whatever the rest of them holds. -/

namespace Sys2Proof.Machine

/-- Two states that a feed cannot tell apart: the registers it reads, and the bytes of a SysEx in progress. -/
structure DecoderAgrees (x y : State) : Prop where
  ds : x.ds = y.ds
  rs : x.rs = y.rs
  d0 : x.d0 = y.d0
  idx : x.idx = y.idx
  cap : x.cfg.sysexCap = y.cfg.sysexCap
  buf : x.ds = .awaitSysEx → ∀ k, k < x.idx → Memory.read x.buf k = Memory.read y.buf k

/-- Reading a prefix depends on its bytes and the capacity only. -/
theorem memReadPrefix_agrees {x y : State} (hc : x.cfg.sysexCap = y.cfg.sysexCap) (n : Nat)
    (h : ∀ k, k < n → Memory.read x.buf k = Memory.read y.buf k) : x.memReadPrefix n = y.memReadPrefix n := by
  induction n with
  | zero => rfl
  | succ n ih =>
    simp only [State.memReadPrefix, State.memRead, ih fun k hk => h k (by omega), h n (by omega), hc]

/-- The status arm on two states that agree. -/
theorem classifyStatus_agrees {x y : State} (h : DecoderAgrees x y) (b : Byte) :
    ∃ cs, DecoderAgrees (classifyStatus b x) (classifyStatus b y)
      ∧ (classifyStatus b x).sig.ev = x.sig.ev ∧ (classifyStatus b y).sig.ev = y.sig.ev
      ∧ (classifyStatus b x).sig.ovf = x.sig.ovf ∧ (classifyStatus b y).sig.ovf = y.sig.ovf
      ∧ (classifyStatus b x).sig.codes = x.sig.codes ++ cs ∧ (classifyStatus b y).sig.codes = y.sig.codes ++ cs
      ∧ (classifyStatus b x).d1 = x.d1 ∧ (classifyStatus b y).d1 = y.d1
      ∧ (classifyStatus b x).buf = x.buf ∧ (classifyStatus b y).buf = y.buf := by
  unfold classifyStatus
  split_ifs
  · exact ⟨[], ⟨rfl, rfl, h.d0, h.idx, h.cap, by rintro ⟨⟩⟩, by simp⟩
  · exact ⟨[], ⟨rfl, rfl, h.d0, h.idx, h.cap, by rintro ⟨⟩⟩, by simp⟩
  · exact ⟨[], ⟨rfl, rfl, h.d0, rfl, h.cap, fun _ k hk => absurd hk (Nat.not_lt_zero k)⟩, by simp⟩
  · exact ⟨[.unrecognizedStatus b], ⟨rfl, h.rs, h.d0, h.idx, h.cap, by rintro ⟨⟩⟩, by simp⟩

/-- A feed on two states that agree: the same outputs, the same codes raised, the same stop. -/
theorem feed_agrees {x y : State} (h : DecoderAgrees x y) (b : Byte) :
    (∃ f, feed b x = .fault f ∧ feed b y = .fault f)
    ∨ ∃ t u cs, feed b x = .next t ∧ feed b y = .next u ∧ DecoderAgrees t u ∧ t.sig.ev = u.sig.ev ∧ t.sig.ovf = u.sig.ovf
      ∧ t.sig.codes = x.sig.codes ++ cs ∧ u.sig.codes = y.sig.codes ++ cs
      ∧ (x.d1 = y.d1 → t.d1 = u.d1) ∧ (x.buf = y.buf → t.buf = u.buf) := by
  have hb : DecoderAgrees (beginFeed x) (beginFeed y) := ⟨h.ds, h.rs, h.d0, h.idx, h.cap, h.buf⟩
  by_cases hr : isRealTime b = true
  · exact .inr ⟨_, _, [], feed_realTime hr x, feed_realTime hr y, ⟨h.ds, h.rs, h.d0, h.idx, h.cap, h.buf⟩, rfl, rfl,
      (by simp), (by simp), id, id⟩
  have hr : isRealTime b = false := by simpa using hr
  by_cases hd : isData b = true
  · right
    cases hs : x.ds with
    | awaitStatus =>
      exact ⟨_, _, [], feed_data_awaitStatus hd hs, feed_data_awaitStatus hd (h.ds ▸ hs), hb, rfl, rfl, (by simp), (by simp),
        id, id⟩
    | awaitFirstData =>
      exact ⟨_, _, [], feed_data_awaitFirstData hd hs, feed_data_awaitFirstData hd (h.ds ▸ hs),
        ⟨rfl, h.rs, rfl, h.idx, h.cap, by rintro ⟨⟩⟩, rfl, rfl, (by simp), (by simp), id, id⟩
    | awaitSecondData =>
      exact ⟨_, _, [], feed_data_awaitSecondData hd hs, feed_data_awaitSecondData hd (h.ds ▸ hs),
        ⟨rfl, h.rs, h.d0, h.idx, h.cap, by rintro ⟨⟩⟩, by simp [h.rs, h.d0], rfl, (by simp), (by simp), fun _ => rfl, id⟩
    | awaitSingleData =>
      exact ⟨_, _, [], feed_data_awaitSingleData hd hs, feed_data_awaitSingleData hd (h.ds ▸ hs),
        ⟨h.ds, h.rs, h.d0, h.idx, h.cap, h.buf⟩, by simp [h.rs], rfl, (by simp), (by simp), id, id⟩
    | awaitSysEx =>
      by_cases hi : x.idx < x.cfg.sysexCap
      · have hy : y.idx < y.cfg.sysexCap := by rw [← h.idx, ← h.cap]; exact hi
        refine ⟨_, _, [], feed_data_append hd hs hi, feed_data_append hd (h.ds ▸ hs) hy,
          ⟨h.ds, h.rs, h.d0, congrArg (· + 1) h.idx, h.cap, fun _ k hk => ?_⟩, rfl, rfl, (by simp), (by simp), id, ?_⟩
        · change k < x.idx + 1 at hk
          by_cases he : k = x.idx
          · subst he; simp [h.idx]
          · have : k ≠ y.idx := h.idx ▸ he
            simp [he, this, h.buf hs k (by omega)]
        · intro e; simp [e, h.idx]
      · have hy : ¬ y.idx < y.cfg.sysexCap := by rw [← h.idx, ← h.cap]; exact hi
        exact ⟨_, _, _, feed_data_overflow hd hs hi, feed_data_overflow hd (h.ds ▸ hs) hy,
          ⟨rfl, h.rs, h.d0, rfl, h.cap, by rintro ⟨⟩⟩, rfl, rfl, rfl, rfl, id, id⟩
  · have hd : isData b = false := by simpa using hd
    by_cases hs : x.ds ≠ .awaitSysEx ∨ b ≠ 0xF7
    · obtain ⟨cs, c0, c1, c2, c3, c4, c5, c6, c7, c8, c9, c10⟩ := classifyStatus_agrees
        (x := (beginFeed x).raise .reprocess) (y := (beginFeed y).raise .reprocess) ⟨h.ds, h.rs, h.d0, h.idx, h.cap, h.buf⟩ b
      exact .inr ⟨_, _, [.reprocess] ++ cs, feed_status hd hr hs, feed_status hd hr (h.ds ▸ hs), c0, (c1.trans c2.symm),
        (c3.trans c4.symm), c5.trans (by simp), c6.trans (by simp),
        fun e => c7.trans (Eq.trans e c8.symm), fun e => c9.trans (Eq.trans e c10.symm)⟩
    · push Not at hs
      obtain ⟨hs, rfl⟩ := hs
      have hp := memReadPrefix_agrees h.cap x.idx (h.buf hs)
      cases hm : x.memReadPrefix x.idx with
      | error f => exact .inl ⟨f, feed_sysExEnd_fault hs hm, feed_sysExEnd_fault (h.ds ▸ hs) (by rw [← h.idx, ← hp]; exact hm)⟩
      | ok bytes =>
        obtain ⟨cs, c0, c1, c2, c3, c4, c5, c6, c7, c8, c9, c10⟩ := classifyStatus_agrees
          (x := ((beginFeed x).emitEvent (.sysEx bytes x.idx)).raise .reprocess)
          (y := ((beginFeed y).emitEvent (.sysEx bytes y.idx)).raise .reprocess) ⟨h.ds, h.rs, h.d0, h.idx, h.cap, h.buf⟩ 0xF7
        exact .inr ⟨_, _, [.reprocess] ++ cs, feed_sysExEnd hs hm,
          feed_sysExEnd (h.ds ▸ hs) (by rw [← h.idx, ← hp]; exact hm), c0, (by rw [c1, c2]; simp [h.idx]),
          (c3.trans c4.symm), c5.trans (by simp), c6.trans (by simp),
        fun e => c7.trans (Eq.trans e c8.symm), fun e => c9.trans (Eq.trans e c10.symm)⟩

end Sys2Proof.Machine
end

