-- ==== Sys2Proof/Laws/Cycle.lean ====
section
/-! SUPPORT. What each phase of a cycle answers, in closed form: the queue operations through R116's `fifoAccept`, the
classifier through R105. Later proofs about a step cite these and unfold no phase. -/

namespace Sys2Proof.Machine

/-! ## The queue operations -/

/-- How many drops a list of codes records (R156). -/
def dropCount (cs : List ErrorCode) : Nat := cs.count .channelFull

@[simp] theorem dropCount_nil : dropCount [] = 0 := rfl

@[simp] theorem dropCount_drop : dropCount [.channelFull] = 1 := rfl

@[simp] theorem dropCount_append (a b : List ErrorCode) : dropCount (a ++ b) = dropCount a + dropCount b :=
  List.count_append

@[simp] theorem dropCount_unrecognized (b : Byte) : dropCount [.unrecognizedStatus b] = 0 := by
  simp [dropCount]

@[simp] theorem dropCount_reprocess : dropCount [.reprocess] = 0 := rfl

@[simp] theorem dropCount_overflow : dropCount [.sysExOverflow] = 0 := rfl

/-- A push at most appends what R116 accepts, and records `ChannelFull` otherwise. -/
theorem exec_serPush (b : Byte) (s : State) : ∃ cs, dropCount cs ≤ 1 ∧ exec (.serPush b) s = .next { s with
    serq := s.serq ++ fifoAccept s.cfg.serDepth s.serq.length [b], sig := { s.sig with codes := s.sig.codes ++ cs } } := by
  by_cases h : s.serq.length < s.cfg.serDepth
  · exact ⟨[], by simp, by simp [exec, execSerPush, fifoRoom, fifoAccept, h]⟩
  · exact ⟨[.channelFull], by simp, by simp [exec, execSerPush, fifoRoom, fifoAccept, h, State.raise]⟩

theorem exec_btnPush (e : Edge) (s : State) : ∃ cs, dropCount cs ≤ 1 ∧ exec (.btnPush e) s = .next { s with
    btnq := s.btnq ++ fifoAccept s.cfg.btnDepth s.btnq.length [e], sig := { s.sig with codes := s.sig.codes ++ cs } } := by
  by_cases h : s.btnq.length < s.cfg.btnDepth
  · exact ⟨[], by simp, by simp [exec, execBtnPush, fifoRoom, fifoAccept, h]⟩
  · exact ⟨[.channelFull], by simp, by simp [exec, execBtnPush, fifoRoom, fifoAccept, h, State.raise]⟩

theorem pushOut_eq (w : OutWord) (s : State) : ∃ cs, dropCount cs ≤ 1 ∧ pushOut w s = .next { s with
    outq := s.outq ++ fifoAccept s.cfg.outDepth s.outq.length [w], sig := { s.sig with codes := s.sig.codes ++ cs } } := by
  by_cases h : s.outq.length < s.cfg.outDepth
  · exact ⟨[], by simp, by simp [pushOut, fifoRoom, fifoAccept, h]⟩
  · exact ⟨[.channelFull], by simp, by simp [pushOut, fifoRoom, fifoAccept, h, State.raise]⟩

/-- The items accepted of two lists of requests, one after the other. -/
theorem fifoAccept_append {α : Type} (d n : Nat) (ps qs : List α) :
    fifoAccept d n (ps ++ qs) = fifoAccept d n ps ++ fifoAccept d (n + (fifoAccept d n ps).length) qs := by
  induction ps generalizing n with
  | nil => simp [fifoAccept]
  | cons p ps ih =>
    by_cases h : n < d
    · simp [fifoAccept, h, ih, Nat.add_assoc, Nat.add_comm 1]
    · simp [fifoAccept, h, ih]

/-- What is accepted fits. -/
theorem fifoAccept_length {α : Type} (d n : Nat) (ps : List α) (h : n ≤ d) : n + (fifoAccept d n ps).length ≤ d := by
  induction ps generalizing n with
  | nil => simpa [fifoAccept] using h
  | cons p ps ih =>
    by_cases hn : n < d
    · have := ih (n + 1) hn; simp [fifoAccept, hn]; omega
    · simpa [fifoAccept, hn] using ih n h

/-- Only requests are accepted. -/
theorem mem_fifoAccept {α : Type} (d n : Nat) (ps : List α) {x : α} (h : x ∈ fifoAccept d n ps) : x ∈ ps := by
  induction ps generalizing n with
  | nil => simp [fifoAccept] at h
  | cons p ps ih =>
    by_cases hn : n < d
    · simp only [fifoAccept, hn, if_true, List.mem_cons] at h
      rcases h with rfl | h
      · simp
      · simp [ih _ h]
    · simp only [fifoAccept, hn, if_false] at h; simp [ih _ h]

/-- A FIFO never holds more than its depth (R127). -/
theorem fifoCycle_length {α : Type} (d : Nat) (q : List α) (pop : Bool) (ps : List α) (h : q.length ≤ d) :
    (fifoCycle d q pop ps).length ≤ d := by
  have := fifoAccept_length d q.length ps h
  unfold fifoCycle
  split <;> simp <;> omega

/-- Popping after the pushes, from a queue that was not empty before them, is R116's cycle. -/
theorem fifoCycle_pushed {α : Type} (d : Nat) (q : List α) (pop : Bool) (ps : List α) (h : pop = true → q ≠ []) :
    (if pop = true then (q ++ fifoAccept d q.length ps).tail else q ++ fifoAccept d q.length ps) = fifoCycle d q pop ps := by
  cases pop with
  | false => rfl
  | true =>
    cases q with
    | nil => exact absurd rfl (h rfl)
    | cons x q => rfl

/-- Popping before what the pushes append is R116's cycle too. -/
theorem fifoCycle_popped {α : Type} (d : Nat) (q : List α) (pop : Bool) (ps : List α) (h : pop = true → q ≠ []) :
    (if pop = true then q.tail else q) ++ fifoAccept d q.length ps = fifoCycle d q pop ps := by
  cases pop with
  | false => rfl
  | true =>
    cases q with
    | nil => exact absurd rfl (h rfl)
    | cons x q => rfl

/-- A pop request on an empty queue has no effect (R118). -/
theorem fifoCycle_request {α : Type} (d : Nat) (q : List α) (req : Bool) (ps : List α) :
    fifoCycle d q (req && !q.isEmpty) ps = fifoCycle d q req ps := by
  cases req <;> cases q <;> rfl

/-! ## The phases -/

theorem pushPhase_eq (p : PortsIn) (s : State) : ∃ cs, dropCount cs ≤ 2 ∧ pushPhase p s = .next { s with
    serq := s.serq ++ fifoAccept s.cfg.serDepth s.serq.length (serRequest p)
    btnq := s.btnq ++ fifoAccept s.cfg.btnDepth s.btnq.length (btnRequest p)
    sig := { s.sig with codes := s.sig.codes ++ cs } } := by
  have h1 : ∃ cs, dropCount cs ≤ 1 ∧ execIf p.serPush (.serPush p.serData) s = .next { s with
      serq := s.serq ++ fifoAccept s.cfg.serDepth s.serq.length (serRequest p)
      sig := { s.sig with codes := s.sig.codes ++ cs } } := by
    cases hp : p.serPush
    · exact ⟨[], by simp, by simp [execIf, serRequest, hp, fifoAccept]⟩
    · simpa [execIf, serRequest, hp] using exec_serPush p.serData s
  obtain ⟨c1, n1, h1⟩ := h1
  have h2 : ∀ t : State, ∃ cs, dropCount cs ≤ 1 ∧ execIf p.btnPush (.btnPush (edgeOfBit p.btnEdge)) t = .next { t with
      btnq := t.btnq ++ fifoAccept t.cfg.btnDepth t.btnq.length (btnRequest p)
      sig := { t.sig with codes := t.sig.codes ++ cs } } := by
    intro t
    cases hp : p.btnPush
    · exact ⟨[], by simp, by simp [execIf, btnRequest, hp, fifoAccept]⟩
    · simpa [execIf, btnRequest, hp] using exec_btnPush (edgeOfBit p.btnEdge) t
  obtain ⟨c2, n2, h2⟩ := h2 { s with
      serq := s.serq ++ fifoAccept s.cfg.serDepth s.serq.length (serRequest p)
      sig := { s.sig with codes := s.sig.codes ++ c1 } }
  exact ⟨c1 ++ c2, by simp; omega, by simp [pushPhase, h1, h2]⟩

theorem filterPhase_eq (s : State) : ∃ cs, dropCount cs ≤ 1 ∧ filterPhase s = .next { s with
    outq := s.outq ++ fifoAccept s.cfg.outDepth s.outq.length (midiRequest s.cfg s.cmask s.sig.ev)
    sig := { s.sig with codes := s.sig.codes ++ cs } } := by
  cases h : filterEvent s.cmask s.cfg.modCcId s.sig.ev with
  | some m =>
    obtain ⟨status, d0, d1⟩ := m
    simpa only [filterPhase, midiRequest, h, exec, execOutPushMidi] using pushOut_eq (midiWord status d0 d1) s
  | none => exact ⟨[], by simp, by simp [filterPhase, midiRequest, h, fifoAccept]⟩

theorem pressPhase_eq (s : State) : ∃ cs, dropCount cs ≤ 1 ∧ pressPhase s = .next { s with
    outq := s.outq ++ fifoAccept s.cfg.outDepth s.outq.length (pressRequest s.cfg s.sig.bev)
    sig := { s.sig with codes := s.sig.codes ++ cs } } := by
  cases h : s.sig.bev with
  | some k => simpa only [pressPhase, pressRequest, h, exec, execOutPushBtn] using pushOut_eq (buttonWord (buttonId s.cfg) k) s
  | none => exact ⟨[], by simp, by simp [pressPhase, pressRequest, h, fifoAccept]; rw [← h]⟩

/-- The tick and the edge are R105's `classify`, on wires that carried no press kind. -/
theorem classifierPhase_eq (tick take : Bool) (s : State) (hb : s.sig.bev = none) (he : s.sig.e = none)
    (hq : take = true → s.btnq ≠ []) :
    classifierPhase tick take s = .next { s with
      btnq := if take then s.btnq.tail else s.btnq
      bs := (classifyR105 s.cfg tick (if take then s.btnq.head? else none) s.bs s.brem).1
      brem := (classifyR105 s.cfg tick (if take then s.btnq.head? else none) s.bs s.brem).2.1
      sig := { s.sig with
        e := if take then s.btnq.head? else none
        bev := (classifyR105 s.cfg tick (if take then s.btnq.head? else none) s.bs s.brem).2.2 } } := by
  obtain ⟨ds, rs, d0, d1, idx, buf, bs, brem, serq, btnq, outq, cmask, cmode, cfg, inputs, sig, out, n⟩ := s
  obtain ⟨b, e, ev, ovf, bev, codes⟩ := sig
  cases hb; cases he
  have hr : ∀ b : Bool, (b = true → btnq ≠ []) → take = b →
      take = false ∨ ∃ e q, take = true ∧ btnq = e :: q := by
    rintro (_ | _) h rfl
    · exact .inl rfl
    · cases btnq with
      | nil => exact absurd rfl (h rfl)
      | cons e q => exact .inr ⟨e, q, rfl, rfl⟩
  obtain rfl | ⟨e, q, rfl, rfl⟩ := hr take hq rfl
  · cases tick <;> cases bs <;> simp [classifierPhase, execIf, exec, execTick, classifyR105, State.emitPress]
    split <;> simp_all
  · cases tick <;> cases bs <;> cases e <;>
      simp [classifierPhase, execIf, exec, execTick, execBtnPop, runEdge, edgeInstr, execBtnFall, execBtnRise,
        classifyR105, State.emitPress, releaseKind]
    all_goals split <;> simp_all [runEdge, edgeInstr, exec, execBtnFall, execBtnRise, State.emitPress, releaseKind]

theorem consumerPhase_eq (p : PortsIn) (take : Bool) (s : State) (hq : take = true → s.outq ≠ []) :
    consumerPhase p take s = .next { s with
      outq := if take then s.outq.tail else s.outq
      cmask := if p.cfgWe then (cfgWriteR135 p.cfgSel p.cfgValue s.cmask s.cmode).1 else s.cmask
      cmode := if p.cfgWe then (cfgWriteR135 p.cfgSel p.cfgValue s.cmask s.cmode).2 else s.cmode } := by
  have h1 : execIf take .outPop s = .next { s with outq := if take then s.outq.tail else s.outq } := by
    cases take
    · simp [execIf]
    · cases ho : s.outq with
      | nil => exact absurd ho (hq rfl)
      | cons w q => simp [execIf, exec, execOutPop, ho]
  have h2 : ∀ t : State, execIf p.cfgWe (cfgInstr p.cfgSel p.cfgValue) t = .next { t with
      cmask := if p.cfgWe then (cfgWriteR135 p.cfgSel p.cfgValue t.cmask t.cmode).1 else t.cmask
      cmode := if p.cfgWe then (cfgWriteR135 p.cfgSel p.cfgValue t.cmask t.cmode).2 else t.cmode } := by
    intro t
    cases p.cfgWe
    · simp [execIf]
    · generalize p.cfgSel = sel
      have hs : sel = 0 ∨ sel = 1 ∨ (sel ≠ 0 ∧ sel ≠ 1) := by
        by_cases h0 : sel = 0
        · exact .inl h0
        by_cases h1 : sel = 1
        · exact .inr (.inl h1)
        exact .inr (.inr ⟨h0, h1⟩)
      obtain rfl | rfl | ⟨h0, h1⟩ := hs
      · by_cases hv : p.cfgValue.toNat ≤ 3 <;> simp [execIf, cfgInstr, exec, execCfgMode, cfgWriteR135, hv]
      · by_cases hv : p.cfgValue.toNat ≤ 0xFFFF <;> simp [execIf, cfgInstr, exec, execCfgMask, cfgWriteR135, hv]
      · simp_all [execIf, cfgInstr, exec, execCfgRsvd, cfgWriteR135]
  simp only [consumerPhase, h1, andThen_next, h2]

/-! ## The cycle -/

/-- A state with other queues and other queue wires. -/
def withQueues (q : List Byte) (e : List Edge) (b : Option Byte) (cs : List ErrorCode) (s : State) : State :=
  { s with serq := q, btnq := e, sig := { s.sig with b := b, codes := cs ++ s.sig.codes } }

/-- The decoder reads and writes no queue: a feed is the same whatever they hold. -/
theorem feed_withQueues (b : Byte) (s : State) (q : List Byte) (e : List Edge) (sb : Option Byte) (cs : List ErrorCode) :
    feed b (withQueues q e sb cs s) = andThen (feed b s) fun t => .next (withQueues q e sb cs t) := by
  have hc : ∀ (x : State), classifyStatus b (withQueues q e sb cs x) = withQueues q e sb cs (classifyStatus b x) := by
    intro x
    simp only [classifyStatus]
    split_ifs <;> simp [withQueues, State.raise]
  by_cases hr : isRealTime b = true
  · rw [feed_realTime hr, feed_realTime hr]; rfl
  have hr : isRealTime b = false := by simpa using hr
  by_cases hd : isData b = true
  · cases hs : s.ds with
    | awaitStatus => rw [feed_data_awaitStatus hd hs, feed_data_awaitStatus hd (by exact hs)]; rfl
    | awaitFirstData => rw [feed_data_awaitFirstData hd hs, feed_data_awaitFirstData hd (by exact hs)]; rfl
    | awaitSecondData => rw [feed_data_awaitSecondData hd hs, feed_data_awaitSecondData hd (by exact hs)]; rfl
    | awaitSingleData => rw [feed_data_awaitSingleData hd hs, feed_data_awaitSingleData hd (by exact hs)]; rfl
    | awaitSysEx =>
      by_cases hi : s.idx < s.cfg.sysexCap
      · rw [feed_data_append hd hs hi, feed_data_append hd (by exact hs) (by exact hi)]; rfl
      · rw [feed_data_overflow hd hs hi, feed_data_overflow hd (by exact hs) (by exact hi)]
        simp [withQueues, State.raise, State.emitOverflow, beginFeed]
  · have hd : isData b = false := by simpa using hd
    by_cases hs : s.ds ≠ .awaitSysEx ∨ b ≠ 0xF7
    · rw [feed_status hd hr hs, feed_status hd hr (by exact hs), andThen_next, ← hc]
      simp [withQueues, State.raise, beginFeed]
    · push Not at hs
      obtain ⟨hs, rfl⟩ := hs
      have hp := memReadPrefix_congr (s := withQueues q e sb cs s) (t := s) rfl rfl s.idx
      cases hb : s.memReadPrefix s.idx with
      | ok bytes =>
        rw [feed_sysExEnd hs hb, feed_sysExEnd (by exact hs) (hp.trans hb), andThen_next, ← hc]
        simp [withQueues, State.raise, State.emitEvent, beginFeed]
      | error f => rw [feed_sysExEnd_fault hs hb, feed_sysExEnd_fault (by exact hs) (hp.trans hb)]; rfl

/-- What a feed leaves alone: everything but the decoder's registers, its event wires and the codes. -/
structure FeedFrame (s t : State) : Prop where
  bs : t.bs = s.bs
  brem : t.brem = s.brem
  serq : t.serq = s.serq
  btnq : t.btnq = s.btnq
  outq : t.outq = s.outq
  cmask : t.cmask = s.cmask
  cmode : t.cmode = s.cmode
  cfg : t.cfg = s.cfg
  inputs : t.inputs = s.inputs
  out : t.out = s.out
  freeIdx : t.freeIdx = s.freeIdx
  sigB : t.sig.b = s.sig.b
  sigE : t.sig.e = s.sig.e
  bev : t.sig.bev = s.sig.bev
  drops : dropCount t.sig.codes = dropCount s.sig.codes

theorem classifyStatus_frame (b : Byte) (s : State) : FeedFrame s (classifyStatus b s) := by
  unfold classifyStatus
  split_ifs <;> constructor <;> first | rfl | simp

theorem feed_frame {b : Byte} {s t : State} (h : feed b s = .next t) : FeedFrame s t := by
  have hc : ∀ x : State, FeedFrame s x → FeedFrame s (classifyStatus b x) := by
    intro x hx
    have := classifyStatus_frame b x
    exact ⟨this.bs.trans hx.bs, this.brem.trans hx.brem, this.serq.trans hx.serq, this.btnq.trans hx.btnq,
      this.outq.trans hx.outq, this.cmask.trans hx.cmask, this.cmode.trans hx.cmode, this.cfg.trans hx.cfg,
      this.inputs.trans hx.inputs, this.out.trans hx.out, this.freeIdx.trans hx.freeIdx, this.sigB.trans hx.sigB,
      this.sigE.trans hx.sigE, this.bev.trans hx.bev, this.drops.trans hx.drops⟩
  rcases feed_cases h with ⟨-, rfl⟩ | ⟨-, -, rfl⟩ | ⟨-, -, rfl⟩ | ⟨-, -, rfl⟩ | ⟨-, -, rfl⟩ | ⟨-, -, -, rfl⟩ | ⟨-, -, -, rfl⟩
    | ⟨-, -, -, rfl⟩ | ⟨rfl, -, bytes, -, rfl⟩
  case inr.inr.inr.inr.inr.inr.inr.inl => exact hc _ (by constructor <;> first | rfl | simp)
  case inr.inr.inr.inr.inr.inr.inr.inr => exact hc _ (by constructor <;> first | rfl | simp)
  all_goals constructor <;> first | rfl | simp

/-- The decoder's phase, on the state that the pushes left, is R142's decoder part beside those queues. -/
theorem decoderPhase_eq (p : PortsIn) (s : State) (hr : p.rst = false) (q : List Byte) (e : List Edge) (cs : List ErrorCode) :
    decoderPhase p.decClear (decoderTakes p s) (withQueues (s.serq ++ q) e none cs (beginCycle s))
      = andThen (decoderR142 p s) fun d => .next (withQueues
          ((if serPopR142 p s then s.serq.tail else s.serq) ++ q) e (if serPopR142 p s then s.serq.head? else none) cs d) := by
  cases hc : p.decClear
  · cases hd : p.decRun
    · simp [decoderPhase, decoderTakes, serPopR142, decoderR142, hc, hd]
    · cases hq : s.serq with
      | nil => simp [decoderPhase, decoderTakes, serPopR142, decoderR142, hc, hd, hq, emptyQ]
      | cons b r =>
        have ht : execSerPop (withQueues (b :: r ++ q) e none cs (beginCycle s))
            = .next (withQueues (r ++ q) e (some b) cs (beginCycle s)) := rfl
        have hf := feed_withQueues b (beginCycle s) (r ++ q) e (some b) cs
        simp only [decoderPhase, decoderTakes, serPopR142, decoderR142, hc, hd, hq, hr, emptyQ, exec, ht]
        simpa [runByte, exec_decodeByte, withQueues] using hf
  · simp [decoderPhase, exec, execDecClear, serPopR142, decoderR142, hc, withQueues, clearDecoder]

/-- What the decoder's part leaves alone. -/
theorem decoderR142_frame {p : PortsIn} {s d : State} (h : decoderR142 p s = .next d) : FeedFrame (beginCycle s) d := by
  unfold decoderR142 at h
  split at h
  · cases h; constructor <;> rfl
  · split at h
    · exact feed_frame h
    · cases h; constructor <;> rfl

/-- The decoder's part is never refused. -/
theorem decoderR142_not_refused (p : PortsIn) (s : State) (r : Refusal) : decoderR142 p s ≠ .refused r := by
  unfold decoderR142
  split
  · simp
  · split
    · rename_i b _
      rcases feed_next_or_unread b (beginCycle s) with ⟨t, ht⟩ | ⟨-, -, f, -, hf⟩
      · simp [ht]
      · simp [hf]
    · simp

/-- The state with other error codes. -/
def withCodes (cs : List ErrorCode) (s : State) : State := { s with sig := { s.sig with codes := cs } }

/-- The phases after the decoder's, on the state it and the pushes left, are the rest of R142. -/
theorem afterDecoder_eq (p : PortsIn) (s d : State) (hr : p.rst = false) (fr : FeedFrame (beginCycle s) d)
    (cs : List ErrorCode) (hn : dropCount cs ≤ 2) : ∃ cs', dropCount cs' ≤ 4 ∧ afterDecoder p s (withQueues
        ((if serPopR142 p s then s.serq.tail else s.serq) ++ fifoAccept s.cfg.serDepth s.serq.length (serRequest p))
        (s.btnq ++ fifoAccept s.cfg.btnDepth s.btnq.length (btnRequest p))
        (if serPopR142 p s then s.serq.head? else none) cs d) = .next (withCodes cs' (finishR142 p s d)) := by
  have hct : classifierTakes p s = btnPopR142 p s := by simp [classifierTakes, btnPopR142, hr, emptyQ]
  have hot : consumerTakes p s = (p.outPop && !s.outq.isEmpty) := by simp [consumerTakes, outValid, emptyQ, hr]
  have f1 : d.cfg = s.cfg := fr.cfg
  have f2 : d.bs = s.bs := fr.bs
  have f3 : d.brem = s.brem := fr.brem
  have f4 : d.outq = s.outq := fr.outq
  have f5 : d.cmask = s.cmask := fr.cmask
  have f6 : d.cmode = s.cmode := fr.cmode
  have f7 : d.sig.e = none := fr.sigE
  have f8 : d.sig.bev = none := fr.bev
  have hbq : btnPopR142 p s = true → s.btnq ≠ [] := by
    intro h; simp only [btnPopR142, Bool.and_eq_true] at h; intro hn; simp [hn] at h
  have hoq : consumerTakes p s = true → s.outq ≠ [] := by
    intro h; simp only [hot, Bool.and_eq_true] at h; intro hn; simp [hn] at h
  generalize hx : (withQueues _ _ _ cs d : State) = x
  obtain ⟨cs2, n2, h3⟩ := filterPhase_eq x
  simp only [afterDecoder, h3, andThen_next]
  rw [classifierPhase_eq]
  rotate_left
  · simp [← hx, withQueues, f8]
  · simp [← hx, withQueues, f7]
  · intro h; rw [hct] at h; simp [← hx, withQueues, hbq h]
  simp only [andThen_next]
  generalize hy : (State.mk .. : State) = y
  obtain ⟨cs3, n3, h4⟩ := pressPhase_eq y
  rw [h4, andThen_next, consumerPhase_eq]
  rotate_left
  · intro h; simp [← hy, ← hx, withQueues, f4, hoq h]
  simp only [andThen_next, endCycle]
  have f9 : dropCount d.sig.codes = 0 := fr.drops
  refine ⟨y.sig.codes ++ cs3, by simp [← hy, ← hx, withQueues, f9]; omega, ?_⟩
  have hhead : (if btnPopR142 p s = true then
      (s.btnq ++ fifoAccept s.cfg.btnDepth s.btnq.length (btnRequest p)).head? else none)
      = if btnPopR142 p s = true then s.btnq.head? else none := by
    split_ifs with h
    · cases hq : s.btnq with
      | nil => exact absurd hq (hbq h)
      | cons e q => rfl
    · rfl
  have hsq : serPopR142 p s = true → s.serq ≠ [] := by
    intro h; simp only [serPopR142, Bool.and_eq_true] at h; intro hn; simp [hn] at h
  have qs := fifoCycle_popped s.cfg.serDepth s.serq (serPopR142 p s) (serRequest p) hsq
  have qb := fifoCycle_pushed s.cfg.btnDepth s.btnq (btnPopR142 p s) (btnRequest p) hbq
  have qo := fun ps => (fifoCycle_pushed s.cfg.outDepth s.outq (consumerTakes p s) ps hoq).trans
    (hot ▸ fifoCycle_request s.cfg.outDepth s.outq p.outPop ps)
  have ho : ∀ ps qs : List OutWord, s.outq ++ fifoAccept s.cfg.outDepth s.outq.length ps
      ++ fifoAccept s.cfg.outDepth (s.outq ++ fifoAccept s.cfg.outDepth s.outq.length ps).length qs
      = s.outq ++ fifoAccept s.cfg.outDepth s.outq.length (ps ++ qs) := by
    intro ps qs; rw [fifoAccept_append, List.length_append, List.append_assoc]
  subst hy hx
  simp only [withCodes, finishR142, withQueues, hct, f1, f2, f3, f4, f5, f6, hhead, qs, qb, ho, qo]
  cases p.cfgWe <;> rfl

/-- One running cycle, whole: the decoder's part, then the rest of R142, with the codes `cs` of the cycle. -/
theorem cycle_running (p : PortsIn) (s : State) (hr : p.rst = false) :
    (∃ f, decoderR142 p s = .fault f ∧ cycle p s = .fault f)
    ∨ ∃ d cs, dropCount cs ≤ 4 ∧ decoderR142 p s = .next d ∧ FeedFrame (beginCycle s) d
        ∧ cycle p s = .next (withCodes cs (finishR142 p s d)) := by
  obtain ⟨cs1, n1, h1⟩ := pushPhase_eq p (beginCycle s)
  have h2 := decoderPhase_eq p s hr (fifoAccept s.cfg.serDepth s.serq.length (serRequest p))
    (s.btnq ++ fifoAccept s.cfg.btnDepth s.btnq.length (btnRequest p)) cs1
  have hcy : cycle p s = andThen (decoderPhase p.decClear (decoderTakes p s) (withQueues
      (s.serq ++ fifoAccept s.cfg.serDepth s.serq.length (serRequest p))
      (s.btnq ++ fifoAccept s.cfg.btnDepth s.btnq.length (btnRequest p)) none cs1 (beginCycle s))) (afterDecoder p s) := by
    simp only [cycle, hr, Bool.false_eq_true, if_false, h1, andThen_next]
    simp [withQueues, beginCycle, Signals.quiet]
  rw [h2] at hcy
  cases hdec : decoderR142 p s with
  | fault f => exact .inl ⟨f, rfl, by rw [hcy, hdec]; rfl⟩
  | refused x => exact absurd hdec (decoderR142_not_refused p s x)
  | next d =>
    have fr := decoderR142_frame hdec
    obtain ⟨cs, n, h⟩ := afterDecoder_eq p s d hr fr cs1 n1
    exact .inr ⟨d, cs, n, rfl, fr, by rw [hcy, hdec, andThen_next, andThen_next, h]⟩

/-- The reset cycle (R170). -/
theorem cycle_reset (p : PortsIn) (s : State) (hr : p.rst = true) : cycle p s = cycleR142 p s := by
  simp only [cycle, cycleR142, hr, if_true]
  rfl

/-- A step that answers a next state ran a cycle from a legal boundary. -/
theorem step_eq_next {s t : State} (h : step s = .next t) :
    legalConfig s.cfg = true ∧ boundaryOk s = true ∧ cycle (nextInputs s) s = .next t := by
  unfold step at h
  split at h
  · split at h
    · exact ⟨‹_›, ‹_›, h⟩
    · cases h
  · cases h

/-- What a step that answers a next state did, once: the reset cycle, or R142's running cycle. -/
theorem step_cases {s t : State} (h : step s = .next t) :
    ((nextInputs s).rst = true ∧ cycleR142 (nextInputs s) s = .next t)
    ∨ ((nextInputs s).rst = false ∧ ∃ d cs, dropCount cs ≤ 4 ∧ decoderR142 (nextInputs s) s = .next d ∧ FeedFrame (beginCycle s) d
        ∧ t = withCodes cs (finishR142 (nextInputs s) s d)) := by
  obtain ⟨-, -, hc⟩ := step_eq_next h
  cases hr : (nextInputs s).rst with
  | true => exact .inl ⟨rfl, cycle_reset _ s hr ▸ hc⟩
  | false =>
    rcases cycle_running _ s hr with ⟨f, -, hf⟩ | ⟨d, cs, n, hd, fr, hn⟩
    · rw [hf] at hc; cases hc
    · rw [hn] at hc; cases hc; exact .inr ⟨rfl, d, cs, n, hd, fr, rfl⟩

end Sys2Proof.Machine
end

