-- ==== Sys2Proof/Laws/Encoding.lean ====
section
/-! SUPPORT. The bits of the two kinds of OUT word (spec/30_encoding.md R58), and the byte decoder on each written status. -/

namespace Sys2Proof

/-- The bits of a MidiCommand's word. -/
theorem midiWord_bit (s a b : Byte) (i : Nat) : (midiWord s a b).getLsbD i =
    if i < 8 then b.getLsbD i else if i < 16 then a.getLsbD (i - 8) else s.getLsbD (i - 16) := by
  have h : (midiWord s a b).getLsbD i = (0#1 ++ s ++ a ++ b : BitVec (1 + 8 + 8 + 8)).getLsbD i := rfl
  rw [h, BitVec.getLsbD_append, BitVec.getLsbD_append, BitVec.getLsbD_append]
  by_cases h1 : i < 8
  · simp [h1]
  by_cases h2 : i < 16
  · simp [h1, h2, show i - 8 < 8 by omega]
  by_cases h3 : i < 24
  · simp [h1, h2, show ¬ i - 8 < 8 by omega, show i - 8 - 8 = i - 16 by omega]
    intro; omega
  · simp [h1, h2, show ¬ i - 8 < 8 by omega, show ¬ i - 8 - 8 < 8 by omega, BitVec.getLsbD_of_ge s (i - 16) (by omega)]

/-- The bits of a ButtonEvent's word. -/
theorem buttonWord_bit (id : Byte) (k : PressKind) (i : Nat) : (buttonWord id k).getLsbD i =
    if i < 2 then (pressCode k).getLsbD i else if i < 16 then false else if i < 24 then id.getLsbD (i - 16) else decide (i = 24) := by
  have h : (buttonWord id k).getLsbD i = (1#1 ++ id ++ 0#8 ++ 0#6 ++ pressCode k : BitVec (1 + 8 + 8 + 6 + 2)).getLsbD i := rfl
  rw [h, BitVec.getLsbD_append, BitVec.getLsbD_append, BitVec.getLsbD_append, BitVec.getLsbD_append]
  by_cases h1 : i < 2
  · simp [h1]
  by_cases h2 : i < 8
  · simp [h1, show i - 2 < 6 by omega, show i < 16 by omega]
  by_cases h3 : i < 16
  · simp [h1, h3, show ¬ i - 2 < 6 by omega, show i - 2 - 6 < 8 by omega]
  by_cases h4 : i < 24
  · simp [h1, h3, h4, show ¬ i - 2 < 6 by omega, show ¬ i - 2 - 6 < 8 by omega, show i - 2 - 6 - 8 = i - 16 by omega]
    intro; omega
  · simp [h1, h3, h4, show ¬ i - 2 < 6 by omega, show ¬ i - 2 - 6 < 8 by omega, show ¬ i - 2 - 6 - 8 < 8 by omega]
    omega

theorem decodeByte_dataByteOf : ∀ v : BitVec 7, decodeByte (dataByteOf v) = .data v := by decide

theorem decodeByte_statusByte : ∀ ch : BitVec 4,
    decodeByte (statusByte 0x8 ch) = .noteOff ch ∧ decodeByte (statusByte 0x9 ch) = .noteOn ch
    ∧ decodeByte (statusByte 0xA ch) = .polyPressure ch ∧ decodeByte (statusByte 0xB ch) = .controlChange ch
    ∧ decodeByte (statusByte 0xC ch) = .programChange ch ∧ decodeByte (statusByte 0xD ch) = .channelPressure ch
    ∧ decodeByte (statusByte 0xE ch) = .pitchBend ch := by decide

end Sys2Proof
end

