-- ==== Sys2Proof/Laws/PerInstr.lean ====
section
/-! SUPPORT. The per-instruction family EncodingFormat: each row's code has the form that the row's format in
spec/opcode_table.json names. -/

namespace Sys2Proof.Laws

/-- The formats of the opcode table. -/
inductive Format where
  | midiByte
  | btnEdge
  | cfgWrite
  | portStrobe
  | internal
  deriving DecidableEq, Repr

/-- The format of a row, as spec/opcode_table.json gives it. -/
def formatOf : Instr → Format
  | .data _ => .midiByte
  | .noteOff _ => .midiByte
  | .noteOn _ => .midiByte
  | .polyPressure _ => .midiByte
  | .controlChange _ => .midiByte
  | .programChange _ => .midiByte
  | .channelPressure _ => .midiByte
  | .pitchBend _ => .midiByte
  | .sysexStart => .midiByte
  | .timeCode => .midiByte
  | .songPosition => .midiByte
  | .songSelect => .midiByte
  | .unrecF4 => .midiByte
  | .unrecF5 => .midiByte
  | .unrecF6 => .midiByte
  | .sysexEnd => .midiByte
  | .rtF8 => .midiByte
  | .unrecF9 => .midiByte
  | .rtFA => .midiByte
  | .rtFB => .midiByte
  | .rtFC => .midiByte
  | .unrecFD => .midiByte
  | .unrecFE => .midiByte
  | .rtFF => .midiByte
  | .btnFall => .btnEdge
  | .btnRise => .btnEdge
  | .tick => .portStrobe
  | .cfgMode _ => .cfgWrite
  | .cfgMask _ => .cfgWrite
  | .cfgRsvd _ _ => .cfgWrite
  | .serPush _ => .portStrobe
  | .btnPush _ => .portStrobe
  | .outPop => .portStrobe
  | .decClear => .portStrobe
  | .rst => .portStrobe
  | .serPop => .internal
  | .btnPop => .internal
  | .outPushMidi _ _ _ => .internal
  | .outPushBtn _ => .internal

/-- Whether a code has the form of a format: a byte, an edge item, a configuration write alone, ports without one, and for
the internal rows the run ports of the pops or an OUT word. -/
def hasFormat : Format → Code → Prop
  | .midiByte, c => ∃ b, c = .midiByte b
  | .btnEdge, c => ∃ e, c = .btnEdge e
  | .cfgWrite, c => ∃ sel v, c = .ports { PortsIn.idle with cfgWe := true, cfgSel := sel, cfgValue := v }
  | .portStrobe, c => ∃ p : PortsIn, c = .ports p ∧ p.cfgWe = false ∧ p.decRun = false ∧ p.btnRun = false
  | .internal, c => (∃ w, c = .outWord w) ∨ ∃ r e, c = .ports { PortsIn.idle with decRun := r, btnRun := e }

/-- The instruction's code has the form of its row's format, in an instance with any parameters. -/
def EncodingFormat.Statement (i : Instr) : Prop := ∀ cfg : Config, hasFormat (formatOf i) (encode cfg i)

theorem EncodingFormat.data (value : BitVec 7) :
    EncodingFormat.Statement (.data value) := fun _ => ⟨_, rfl⟩
theorem EncodingFormat.noteOff (ch : BitVec 4) :
    EncodingFormat.Statement (.noteOff ch) := fun _ => ⟨_, rfl⟩
theorem EncodingFormat.noteOn (ch : BitVec 4) :
    EncodingFormat.Statement (.noteOn ch) := fun _ => ⟨_, rfl⟩
theorem EncodingFormat.polyPressure (ch : BitVec 4) :
    EncodingFormat.Statement (.polyPressure ch) := fun _ => ⟨_, rfl⟩
theorem EncodingFormat.controlChange (ch : BitVec 4) :
    EncodingFormat.Statement (.controlChange ch) := fun _ => ⟨_, rfl⟩
theorem EncodingFormat.programChange (ch : BitVec 4) :
    EncodingFormat.Statement (.programChange ch) := fun _ => ⟨_, rfl⟩
theorem EncodingFormat.channelPressure (ch : BitVec 4) :
    EncodingFormat.Statement (.channelPressure ch) := fun _ => ⟨_, rfl⟩
theorem EncodingFormat.pitchBend (ch : BitVec 4) :
    EncodingFormat.Statement (.pitchBend ch) := fun _ => ⟨_, rfl⟩
theorem EncodingFormat.sysexStart :
    EncodingFormat.Statement (.sysexStart) := fun _ => ⟨_, rfl⟩
theorem EncodingFormat.timeCode :
    EncodingFormat.Statement (.timeCode) := fun _ => ⟨_, rfl⟩
theorem EncodingFormat.songPosition :
    EncodingFormat.Statement (.songPosition) := fun _ => ⟨_, rfl⟩
theorem EncodingFormat.songSelect :
    EncodingFormat.Statement (.songSelect) := fun _ => ⟨_, rfl⟩
theorem EncodingFormat.unrecF4 :
    EncodingFormat.Statement (.unrecF4) := fun _ => ⟨_, rfl⟩
theorem EncodingFormat.unrecF5 :
    EncodingFormat.Statement (.unrecF5) := fun _ => ⟨_, rfl⟩
theorem EncodingFormat.unrecF6 :
    EncodingFormat.Statement (.unrecF6) := fun _ => ⟨_, rfl⟩
theorem EncodingFormat.sysexEnd :
    EncodingFormat.Statement (.sysexEnd) := fun _ => ⟨_, rfl⟩
theorem EncodingFormat.rtF8 :
    EncodingFormat.Statement (.rtF8) := fun _ => ⟨_, rfl⟩
theorem EncodingFormat.unrecF9 :
    EncodingFormat.Statement (.unrecF9) := fun _ => ⟨_, rfl⟩
theorem EncodingFormat.rtFA :
    EncodingFormat.Statement (.rtFA) := fun _ => ⟨_, rfl⟩
theorem EncodingFormat.rtFB :
    EncodingFormat.Statement (.rtFB) := fun _ => ⟨_, rfl⟩
theorem EncodingFormat.rtFC :
    EncodingFormat.Statement (.rtFC) := fun _ => ⟨_, rfl⟩
theorem EncodingFormat.unrecFD :
    EncodingFormat.Statement (.unrecFD) := fun _ => ⟨_, rfl⟩
theorem EncodingFormat.unrecFE :
    EncodingFormat.Statement (.unrecFE) := fun _ => ⟨_, rfl⟩
theorem EncodingFormat.rtFF :
    EncodingFormat.Statement (.rtFF) := fun _ => ⟨_, rfl⟩
theorem EncodingFormat.btnFall :
    EncodingFormat.Statement (.btnFall) := fun _ => ⟨_, rfl⟩
theorem EncodingFormat.btnRise :
    EncodingFormat.Statement (.btnRise) := fun _ => ⟨_, rfl⟩
theorem EncodingFormat.tick :
    EncodingFormat.Statement (.tick) := fun _ => ⟨_, rfl, rfl, rfl, rfl⟩
theorem EncodingFormat.cfgMode (value : BitVec 32) :
    EncodingFormat.Statement (.cfgMode value) := fun _ => ⟨_, _, rfl⟩
theorem EncodingFormat.cfgMask (value : BitVec 32) :
    EncodingFormat.Statement (.cfgMask value) := fun _ => ⟨_, _, rfl⟩
theorem EncodingFormat.cfgRsvd (sel : BitVec 2) (value : BitVec 32) :
    EncodingFormat.Statement (.cfgRsvd sel value) := fun _ => ⟨_, _, rfl⟩
theorem EncodingFormat.serPush (b : Byte) :
    EncodingFormat.Statement (.serPush b) := fun _ => ⟨_, rfl, rfl, rfl, rfl⟩
theorem EncodingFormat.btnPush (e : Edge) :
    EncodingFormat.Statement (.btnPush e) := fun _ => ⟨_, rfl, rfl, rfl, rfl⟩
theorem EncodingFormat.outPop :
    EncodingFormat.Statement (.outPop) := fun _ => ⟨_, rfl, rfl, rfl, rfl⟩
theorem EncodingFormat.decClear :
    EncodingFormat.Statement (.decClear) := fun _ => ⟨_, rfl, rfl, rfl, rfl⟩
theorem EncodingFormat.rst :
    EncodingFormat.Statement (.rst) := fun _ => ⟨_, rfl, rfl, rfl, rfl⟩
theorem EncodingFormat.serPop :
    EncodingFormat.Statement (.serPop) := fun _ => .inr ⟨_, _, rfl⟩
theorem EncodingFormat.btnPop :
    EncodingFormat.Statement (.btnPop) := fun _ => .inr ⟨_, _, rfl⟩
theorem EncodingFormat.outPushMidi (status d0 d1 : Byte) :
    EncodingFormat.Statement (.outPushMidi status d0 d1) := fun _ => .inl ⟨_, rfl⟩
theorem EncodingFormat.outPushBtn (kind : PressKind) :
    EncodingFormat.Statement (.outPushBtn kind) := fun _ => .inl ⟨_, rfl⟩

end Sys2Proof.Laws
end

