-- ==== Sys2Proof/Tests/Slice0.lean ====
section
/-! SUPPORT. Tests: the well-formedness smoke, one written-out word per constructor, single steps with results from
spec/95_test_vectors.md (each test names its vector), and a witness for the hypotheses of each statement. -/

namespace Sys2Proof.Tests

open Sys2Proof.Machine

/-! ## Helpers -/

/-- The next state, if there is one. -/
def nextOf (r : Result) : Option State :=
  match r with
  | .next s => some s
  | .fault _ => none
  | .refused _ => none

theorem next_of_isSome {r : Result} (h : (nextOf r).isSome = true) : ∃ t, r = .next t := by
  cases r with
  | next s => exact ⟨s, rfl⟩
  | fault f => cases h
  | refused f => cases h

/-- A next state and a decidable property of it. -/
theorem next_with {r : Result} {P : State → Prop} [DecidablePred P]
    (h : (match nextOf r with | some t => decide (P t) | none => false) = true) : ∃ t, r = .next t ∧ P t := by
  cases r with
  | next s => exact ⟨s, rfl, by simpa [nextOf] using h⟩
  | fault f => simp [nextOf] at h
  | refused f => simp [nextOf] at h

/-- A state of the decoder, the rest at reset. -/
def dec (ds : DecState) (rs d0 : Byte) (idx : Nat) (buf : Memory) : State :=
  { State.reset with ds := ds, rs := rs, d0 := d0, idx := idx, buf := buf }

/-- What the vectors of section 2.1 show of a feed: `DS/RS/D0/IDX`, the event and the overflow. -/
structure Seen where
  ds  : DecState
  rs  : Byte
  d0  : Byte
  idx : Nat
  ev  : Option DecodedEvent
  ovf : Bool
  deriving DecidableEq, Repr

def seen (r : Result) : Option Seen :=
  (nextOf r).map fun t => ⟨t.ds, t.rs, t.d0, t.idx, t.sig.ev, t.sig.ovf⟩

/-- A state of the classifier, the rest at reset. -/
def btn (bs : ButtonState) (brem : Nat) : State := { State.reset with bs := bs, brem := brem }

/-- What the vectors of section 2.2 show. -/
def press (r : Result) : Option (ButtonState × Nat × Option PressKind) :=
  (nextOf r).map fun t => (t.bs, t.brem, t.sig.bev)

/-- A reset state with queues, and the inputs of the coming cycle. -/
def queues (serq : List Byte) (btnq : List Edge) (outq : List OutWord) (p : PortsIn) : State :=
  { State.reset with serq := serq, btnq := btnq, outq := outq, inputs := [p] }

/-! ## Well-formedness: one ill-formed term per check -/

theorem test_wf_cfgRsvd_mode : (Instr.cfgRsvd 0 5).wf = false := by decide
theorem test_wf_cfgRsvd_mask : (Instr.cfgRsvd 1 5).wf = false := by decide
theorem test_wf_cfgRsvd_two : (Instr.cfgRsvd 2 5).wf = true := by decide
theorem test_wf_midi_status : (Instr.outPushMidi 0xA0 0x40 0x7F).wf = false := by decide
theorem test_wf_midi_system_status : (Instr.outPushMidi 0xF2 0x40 0x7F).wf = false := by decide
theorem test_wf_midi_data0 : (Instr.outPushMidi 0x90 0x80 0x7F).wf = false := by decide
theorem test_wf_midi_data1 : (Instr.outPushMidi 0x90 0x40 0x80).wf = false := by decide
theorem test_wf_midi : (Instr.outPushMidi 0x90 0x40 0x7F).wf = true := by decide

/-! ## Decoding: a word written out from the spec's encodings for every constructor -/

theorem test_decode_data : decodeTableWord 8 0b00101010 = some (.data 42) := by decide
theorem test_decode_data_max : decodeTableWord 8 0b01111111 = some (.data 127) := by decide
theorem test_decode_noteOff : decodeTableWord 8 0b10000011 = some (.noteOff 3) := by decide
theorem test_decode_noteOn : decodeTableWord 8 0b10011111 = some (.noteOn 15) := by decide
theorem test_decode_polyPressure : decodeTableWord 8 0b10100000 = some (.polyPressure 0) := by decide
theorem test_decode_controlChange : decodeTableWord 8 0b10110001 = some (.controlChange 1) := by decide
theorem test_decode_programChange : decodeTableWord 8 0b11000100 = some (.programChange 4) := by decide
theorem test_decode_channelPressure : decodeTableWord 8 0b11010010 = some (.channelPressure 2) := by decide
theorem test_decode_pitchBend : decodeTableWord 8 0b11101000 = some (.pitchBend 8) := by decide
theorem test_decode_sysexStart : decodeTableWord 8 0b11110000 = some .sysexStart := by decide
theorem test_decode_timeCode : decodeTableWord 8 0b11110001 = some .timeCode := by decide
theorem test_decode_songPosition : decodeTableWord 8 0b11110010 = some .songPosition := by decide
theorem test_decode_songSelect : decodeTableWord 8 0b11110011 = some .songSelect := by decide
theorem test_decode_unrecF4 : decodeTableWord 8 0b11110100 = some .unrecF4 := by decide
theorem test_decode_unrecF5 : decodeTableWord 8 0b11110101 = some .unrecF5 := by decide
theorem test_decode_unrecF6 : decodeTableWord 8 0b11110110 = some .unrecF6 := by decide
theorem test_decode_sysexEnd : decodeTableWord 8 0b11110111 = some .sysexEnd := by decide
theorem test_decode_rtF8 : decodeTableWord 8 0b11111000 = some .rtF8 := by decide
theorem test_decode_unrecF9 : decodeTableWord 8 0b11111001 = some .unrecF9 := by decide
theorem test_decode_rtFA : decodeTableWord 8 0b11111010 = some .rtFA := by decide
theorem test_decode_rtFB : decodeTableWord 8 0b11111011 = some .rtFB := by decide
theorem test_decode_rtFC : decodeTableWord 8 0b11111100 = some .rtFC := by decide
theorem test_decode_unrecFD : decodeTableWord 8 0b11111101 = some .unrecFD := by decide
theorem test_decode_unrecFE : decodeTableWord 8 0b11111110 = some .unrecFE := by decide
theorem test_decode_rtFF : decodeTableWord 8 0b11111111 = some .rtFF := by decide
theorem test_decode_btnFall (cfg : Config) : decode cfg (.btnEdge 0b0) = .ok .btnFall := rfl
theorem test_decode_btnRise (cfg : Config) : decode cfg (.btnEdge 0b1) = .ok .btnRise := rfl
theorem test_decode_tick (cfg : Config) : decode cfg (.ports { PortsIn.idle with tick := true }) = .ok .tick := rfl
theorem test_decode_cfgMode (cfg : Config) :
    decode cfg (.ports { PortsIn.idle with cfgWe := true, cfgSel := 0b00, cfgValue := 3 }) = .ok (.cfgMode 3) := rfl
theorem test_decode_cfgMask (cfg : Config) :
    decode cfg (.ports { PortsIn.idle with cfgWe := true, cfgSel := 0b01, cfgValue := 0xFFFF }) = .ok (.cfgMask 0xFFFF) := rfl
theorem test_decode_cfgRsvd (cfg : Config) :
    decode cfg (.ports { PortsIn.idle with cfgWe := true, cfgSel := 0b11, cfgValue := 1 }) = .ok (.cfgRsvd 3 1) := rfl
theorem test_decode_serPush (cfg : Config) :
    decode cfg (.ports { PortsIn.idle with serPush := true, serData := 0x90 }) = .ok (.serPush 0x90) := rfl
theorem test_decode_btnPush (cfg : Config) :
    decode cfg (.ports { PortsIn.idle with btnPush := true, btnEdge := 1 }) = .ok (.btnPush .rising) := rfl
theorem test_decode_outPop (cfg : Config) : decode cfg (.ports { PortsIn.idle with outPop := true }) = .ok .outPop := rfl
theorem test_decode_decClear (cfg : Config) :
    decode cfg (.ports { PortsIn.idle with decClear := true }) = .ok .decClear := rfl
theorem test_decode_rst (cfg : Config) :
    decode cfg (.ports { PortsIn.idle with rst := true, serPush := true, decRun := true }) = .ok .rst := rfl
theorem test_decode_serPop (cfg : Config) : decode cfg (.ports { PortsIn.idle with decRun := true }) = .ok .serPop := rfl
theorem test_decode_btnPop (cfg : Config) : decode cfg (.ports { PortsIn.idle with btnRun := true }) = .ok .btnPop := rfl
/-- W2. -/
theorem test_decode_outPushMidi (cfg : Config) :
    decode cfg (.outWord 0b0111000110000000001000000) = .ok (.outPushMidi 0xE3 0x00 0x40) := rfl
/-- W5. -/
theorem test_decode_outPushBtn :
    decode { Config.default with btnId := 3 } (.outWord 0b1000000110000000000000001) = .ok (.outPushBtn .long) := rfl

/-! What stands for no single instruction is rejected by name. -/

theorem test_reject_no_request (cfg : Config) : decode cfg (.ports PortsIn.idle) = .error .noRequest := rfl
theorem test_reject_two_requests (cfg : Config) :
    decode cfg (.ports { PortsIn.idle with tick := true, outPop := true }) = .error .severalRequests := rfl
theorem test_reject_press_kind_three :
    decode Config.default (.outWord 0b1000000000000000000000011) = .error .reservedPressKind := rfl
theorem test_reject_reserved_bit :
    decode Config.default (.outWord 0b1000000000000000000000100) = .error .nonzeroReserved := rfl
theorem test_reject_foreign_id :
    decode Config.default (.outWord 0b1000000010000000000000000) = .error .foreignButtonId := rfl
theorem test_reject_status (cfg : Config) :
    decode cfg (.outWord 0b0101000000000000000000000) = .error .notPassedStatus := rfl
theorem test_reject_data_bit_seven (cfg : Config) :
    decode cfg (.outWord 0b0100100001000000000000000) = .error .notDataByte := rfl

/-! OUT words (W1, W3, W6). -/

theorem test_word_w1 : midiWord 0x90 0x40 0x7F = 0x090407F#25 := by decide
theorem test_word_w3 : buttonWord 0 .short = 0x1000000#25 := by decide
theorem test_word_w6 : buttonWord 255 .veryLong = 0x1FF0002#25 := by decide

/-! ## The decoder, one feed each -/

/-- V1: orphan data. -/
theorem test_data_orphan : seen (exec (.data 0x40) (dec .awaitStatus 0 0 0 [])) = some ⟨.awaitStatus, 0, 0, 0, none, false⟩ := by
  decide
/-- S1: the second data byte. -/
theorem test_data_two : seen (exec (.data 0x7F) (dec .awaitSecondData 0x90 0x40 0 []))
    = some ⟨.awaitFirstData, 0x90, 0x40, 0, some (.twoData 0x90 0x40 0x7F), false⟩ := by decide
/-- V30: the NoteOn is preempted without an event. -/
theorem test_noteOff : seen (exec (.noteOff 0) (dec .awaitSecondData 0x90 0x40 0 []))
    = some ⟨.awaitFirstData, 0x80, 0x40, 0, none, false⟩ := by decide
/-- V27: a SysEx is aborted with no event. -/
theorem test_noteOn : seen (exec (.noteOn 0) (dec .awaitSysEx 0xF0 0 2 [(0, 1), (1, 2)]))
    = some ⟨.awaitFirstData, 0x90, 0, 2, none, false⟩ := by decide
/-- V4. -/
theorem test_polyPressure : seen (exec (.polyPressure 0) (dec .awaitStatus 0 0 0 []))
    = some ⟨.awaitFirstData, 0xA0, 0, 0, none, false⟩ := by decide
/-- V5. -/
theorem test_controlChange : seen (exec (.controlChange 1) (dec .awaitStatus 0 0 0 []))
    = some ⟨.awaitFirstData, 0xB1, 0, 0, none, false⟩ := by decide
/-- V6. -/
theorem test_programChange : seen (exec (.programChange 0) (dec .awaitStatus 0 0 0 []))
    = some ⟨.awaitSingleData, 0xC0, 0, 0, none, false⟩ := by decide
/-- V7. -/
theorem test_channelPressure : seen (exec (.channelPressure 2) (dec .awaitStatus 0 0 0 []))
    = some ⟨.awaitSingleData, 0xD2, 0, 0, none, false⟩ := by decide
/-- V8. -/
theorem test_pitchBend : seen (exec (.pitchBend 0) (dec .awaitStatus 0 0 0 []))
    = some ⟨.awaitFirstData, 0xE0, 0, 0, none, false⟩ := by decide
/-- V28: the second F0 restarts the accumulator. -/
theorem test_sysexStart : seen (exec .sysexStart (dec .awaitSysEx 0xF0 0 1 [(0, 1)]))
    = some ⟨.awaitSysEx, 0xF0, 0, 0, none, false⟩ := by decide
/-- V10. -/
theorem test_timeCode : seen (exec .timeCode (dec .awaitStatus 0 0 0 []))
    = some ⟨.awaitSingleData, 0xF1, 0, 0, none, false⟩ := by decide
/-- V11. -/
theorem test_songPosition : seen (exec .songPosition (dec .awaitStatus 0 0 0 []))
    = some ⟨.awaitFirstData, 0xF2, 0, 0, none, false⟩ := by decide
/-- V12. -/
theorem test_songSelect : seen (exec .songSelect (dec .awaitStatus 0 0 0 []))
    = some ⟨.awaitSingleData, 0xF3, 0, 0, none, false⟩ := by decide
/-- V31: after F4 running status is not resumed, though `RS` is still 90. -/
theorem test_unrecF4 : seen (exec .unrecF4 (dec .awaitFirstData 0x90 0x40 0 []))
    = some ⟨.awaitStatus, 0x90, 0x40, 0, none, false⟩ := by decide
/-- V14. -/
theorem test_unrecF5 : seen (exec .unrecF5 (dec .awaitSecondData 0x90 0x40 0 []))
    = some ⟨.awaitStatus, 0x90, 0x40, 0, none, false⟩ := by decide
/-- V15. -/
theorem test_unrecF6 : seen (exec .unrecF6 (dec .awaitStatus 0 0 0 [])) = some ⟨.awaitStatus, 0, 0, 0, none, false⟩ := by
  decide
/-- S4: the accumulated bytes, in order. -/
theorem test_sysexEnd : seen (exec .sysexEnd (dec .awaitSysEx 0xF0 0 2 [(0, 1), (1, 2)]))
    = some ⟨.awaitStatus, 0xF0, 0, 2, some (.sysEx [1, 2] 2), false⟩ := by decide
/-- V9: an empty SysEx. -/
theorem test_sysexEnd_empty : seen (exec .sysexEnd (dec .awaitSysEx 0xF0 0 0 []))
    = some ⟨.awaitStatus, 0xF0, 0, 0, some (.sysEx [] 0), false⟩ := by decide
/-- S3: the collection in progress is undisturbed. -/
theorem test_rtF8 : seen (exec .rtF8 (dec .awaitFirstData 0x90 0 0 []))
    = some ⟨.awaitFirstData, 0x90, 0, 0, some (.realTime 0xF8), false⟩ := by decide
/-- V17: F9 is not real-time. -/
theorem test_unrecF9 : seen (exec .unrecF9 (dec .awaitSecondData 0x90 0x40 0 []))
    = some ⟨.awaitStatus, 0x90, 0x40, 0, none, false⟩ := by decide
/-- V20: FA is not stored. -/
theorem test_rtFA : seen (exec .rtFA (dec .awaitSysEx 0xF0 0 1 [(0, 1)]))
    = some ⟨.awaitSysEx, 0xF0, 0, 1, some (.realTime 0xFA), false⟩ := by decide
/-- V21. -/
theorem test_rtFB : seen (exec .rtFB (dec .awaitStatus 0 0 0 []))
    = some ⟨.awaitStatus, 0, 0, 0, some (.realTime 0xFB), false⟩ := by decide
/-- V22. -/
theorem test_rtFC : seen (exec .rtFC (dec .awaitSingleData 0xC0 0 0 []))
    = some ⟨.awaitSingleData, 0xC0, 0, 0, some (.realTime 0xFC), false⟩ := by decide
/-- V18. -/
theorem test_unrecFD : seen (exec .unrecFD (dec .awaitStatus 0 0 0 [])) = some ⟨.awaitStatus, 0, 0, 0, none, false⟩ := by
  decide
/-- V19: FE is not real-time. -/
theorem test_unrecFE : seen (exec .unrecFE (dec .awaitSecondData 0x90 0x40 0 []))
    = some ⟨.awaitStatus, 0x90, 0x40, 0, none, false⟩ := by decide
/-- V23: FF resets nothing. -/
theorem test_rtFF : seen (exec .rtFF (dec .awaitSecondData 0x90 0x40 0 []))
    = some ⟨.awaitSecondData, 0x90, 0x40, 0, some (.realTime 0xFF), false⟩ := by decide

/-! ## The classifier -/

/-- B11: a restart. -/
theorem test_btnFall : press (exec .btnFall (btn .timing 5)) = some (.timing, 10, none) := by decide
/-- B5, S7: the boundary is Long. -/
theorem test_btnRise_long : press (exec .btnRise (btn .timing 6)) = some (.idle, 0, some .long) := by decide
/-- B4. -/
theorem test_btnRise_short : press (exec .btnRise (btn .timing 7)) = some (.idle, 0, some .short) := by decide
/-- B8. -/
theorem test_tick_expires : press (exec .tick (btn .timing 1)) = some (.idle, 0, some .veryLong) := by decide
/-- B13. -/
theorem test_tick_counts : press (exec .tick (btn .timing 3)) = some (.timing, 2, none) := by decide
/-- B12: expiry, then restart, in one cycle. -/
theorem test_cycle_expiry_and_press :
    press (step { btn .timing 1 with
      btnq := [.falling], inputs := [{ PortsIn.idle with tick := true, btnRun := true }] })
      = some (.timing, 10, some .veryLong) := by decide
/-- B9: the release after expiry in the same cycle emits nothing of its own. -/
theorem test_cycle_expiry_and_release :
    press (step { btn .timing 1 with
      btnq := [.rising], inputs := [{ PortsIn.idle with tick := true, btnRun := true }] })
      = some (.idle, 0, some .veryLong) := by decide

/-! ## Queues, filter, configuration, reset -/

/-- Q6 and Q3. -/
theorem test_serPush : (nextOf (exec (.serPush 2) (queues [1] [] [] PortsIn.idle))).map (·.serq) = some [1, 2] := by decide
theorem test_serPush_full :
    (nextOf (exec (.serPush 5) (queues [1, 2, 3, 4] [] [] PortsIn.idle))).map (·.serq) = some [1, 2, 3, 4] := by decide
theorem test_btnPush :
    (nextOf (exec (.btnPush .rising) (queues [] [.falling] [] PortsIn.idle))).map (·.btnq) = some [.falling, .rising] := by decide
theorem test_serPop : (nextOf (exec .serPop (queues [1, 2] [] [] PortsIn.idle))).map (fun t => (t.serq, t.sig.b))
    = some ([2], some 1) := by decide
theorem test_btnPop : (nextOf (exec .btnPop (queues [] [.rising] [] PortsIn.idle))).map (fun t => (t.btnq, t.sig.e))
    = some ([], some .rising) := by decide
theorem test_outPop : (nextOf (exec .outPop (queues [] [] [7, 8] PortsIn.idle))).map (·.outq) = some [8] := by decide
/-- W1. -/
theorem test_outPushMidi :
    (nextOf (exec (.outPushMidi 0x90 0x40 0x7F) State.reset)).map (·.outq) = some [0x090407F#25] := by decide
/-- W4. -/
theorem test_outPushBtn : (nextOf (exec (.outPushBtn .long) State.reset)).map (·.outq) = some [0x1000001#25] := by decide
/-- Q4: the pop does not make room this cycle. -/
theorem test_cycle_push_and_pop :
    (nextOf (step (queues [0x40, 0x41, 0x42, 0x43] [] []
      { PortsIn.idle with serPush := true, serData := 0x44, decRun := true }))).map (·.serq)
      = some [0x41, 0x42, 0x43] := by decide
/-- Q1: no fall-through. -/
theorem test_cycle_no_fall_through :
    (nextOf (step (queues [] [] [] { PortsIn.idle with serPush := true, serData := 0x44, decRun := true }))).map
      (fun t => (t.serq, t.sig.b)) = some ([0x44], none) := by decide
/-- O3 (`OUT_DEPTH` 4): one place is left, the MidiCommand takes it, the ButtonEvent is dropped, the pop frees none. -/
theorem test_cycle_merge :
    (nextOf (step { queues [0x7F] [.rising] [1, 2, 3]
        { PortsIn.idle with decRun := true, btnRun := true, outPop := true } with
      ds := .awaitSecondData, rs := 0x90, d0 := 0x40, bs := .timing, brem := 5 })).map (·.outq)
      = some [2, 3, 0x090407F#25] := by decide
/-- F5, F9, F11, F13. -/
theorem test_filter_controller : filterEvent 0xFFFF 1 (some (.twoData 0xB0 0x07 0x40)) = none := by decide
theorem test_filter_mask : filterEvent 0x0001 1 (some (.twoData 0x91 0x40 0x7F)) = none := by decide
theorem test_filter_channel : filterEvent 0x8000 1 (some (.twoData 0x9F 0x40 0x7F)) = some (0x9F, 0x40, 0x7F) := by decide
theorem test_filter_mod : filterEvent 0x0020 1 (some (.twoData 0xB5 0x01 0x00)) = some (0xB5, 0x01, 0x00) := by decide
/-- K1, K3, K4, K5, K7. -/
theorem test_cfgMask : (nextOf (exec (.cfgMask 5) State.reset)).map (·.cmask) = some 5 := by decide
theorem test_cfgMask_ignored : (nextOf (exec (.cfgMask 0x10000) State.reset)).map (·.cmask) = some 0xFFFF := by decide
theorem test_cfgMode : (nextOf (exec (.cfgMode 3) State.reset)).map (·.cmode) = some 3 := by decide
theorem test_cfgMode_ignored : (nextOf (exec (.cfgMode 4) State.reset)).map (·.cmode) = some 0 := by decide
theorem test_cfgRsvd : (nextOf (exec (.cfgRsvd 3 1) State.reset)).map (fun t => (t.cmask, t.cmode)) = some (0xFFFF, 0) := by
  decide
/-- Program 4, cycle 5: the event is filtered with the old mask. -/
theorem test_cycle_old_mask :
    (nextOf (step { queues [0x40] [] []
        { PortsIn.idle with decRun := true, cfgWe := true, cfgSel := 1, cfgValue := 1 } with
      ds := .awaitSecondData, rs := 0x91, d0 := 0x3C })).map (fun t => (t.outq, t.cmask))
      = some ([0x0913C40#25], 0x0001) := by decide
/-- X2. -/
theorem test_decClear : seen (exec .decClear (dec .awaitSecondData 0x90 0x40 0 [])) = some ⟨.awaitStatus, 0, 0, 0, none, false⟩ := by
  decide
/-- X4, X5. -/
theorem test_rst : (nextOf (step { queues [1] [.falling] [7] { PortsIn.idle with rst := true, serPush := true } with
      bs := .timing, brem := 3 })).map (fun t => (t.bs, t.brem, t.serq.length + t.btnq.length + t.outq.length, t.out.outValid))
      = some (.idle, 0, 0, false) := by decide
/-- X3: with `dec_clear` the byte is not popped. -/
theorem test_cycle_clear :
    (nextOf (step (queues [0x7F] [] [] { PortsIn.idle with decRun := true, decClear := true }))).map (·.serq) = some [0x7F] := by
  decide
/-- W7: the tap of a SysEx event. -/
theorem test_tap_sysex :
    (nextOf (step { queues [0xF7] [] [] { PortsIn.idle with decRun := true } with
      ds := .awaitSysEx, rs := 0xF0, idx := 2, buf := [(0, 1), (1, 2)] })).map
      (fun t => ((t.out.decEvtKind, t.out.decEvtStatus, t.out.decEvtD0, t.out.decEvtD1), t.out.sxLen, t.out.sxBuf.take 2))
      = some ((4, 0xF0, 0, 0), 2, [1, 2]) := by decide
/-- W9: the tap of a OneData event. -/
theorem test_tap_one :
    (nextOf (step { queues [0x05] [] [] { PortsIn.idle with decRun := true } with ds := .awaitSingleData, rs := 0xC0 })).map
      (fun t => ((t.out.decEvtKind, t.out.decEvtStatus, t.out.decEvtD0, t.out.decEvtD1), t.out.sxLen))
      = some ((2, 0xC0, 5, 0), 0) := by decide
/-- R17, R26, R151: the codes of the enumerations. -/
theorem test_codes : phaseCode .dispatchStatus = 5 ∧ phaseCode (.latched .awaitSingleData) = 4 ∧ buttonCode .timing = 1
    ∧ errorNumber .channelFull = 4 ∧ errorNumber .reprocess = 1 := by decide
/-- R8: `ceil(log2(n + 1))`. -/
theorem test_widths : widthFor 1 = 1 ∧ widthFor 3 = 2 ∧ widthFor 4 = 3 ∧ widthFor 10 = 4 := by decide
/-- The byte placed for the next step is the one it runs. -/
theorem test_withFetchWord : seen (step (State.reset.withFetchWord 8 0x93)) = some ⟨.awaitFirstData, 0x93, 0, 0, none, false⟩ := by
  decide

/-! ## Witnesses: concrete states that meet the hypotheses of the statements -/

/-- A state with work in every unit: a SysEx of two bytes, a press near expiry, and items in every queue. -/
def busy (p : PortsIn) : State :=
  { State.reset with
    ds := .awaitSysEx
    rs := 0xF0
    d0 := 0x40
    d1 := 0x7F
    idx := 2
    buf := [(0, 0x01), (1, 0x02)]
    bs := .timing
    brem := 1
    serq := [0xF7, 0x40]
    btnq := [.rising]
    outq := [midiWord 0x90 0x40 0x7F, buttonWord 0 .short]
    inputs := [p] }

/-- Inputs with every unit at work. -/
def allIn : PortsIn :=
  { PortsIn.idle with
    serPush := true
    serData := 0x41
    btnPush := true
    tick := true
    decRun := true
    btnRun := true
    cfgWe := true
    cfgSel := 1
    cfgValue := 0x0001
    outPop := true }

theorem busy_inv (p : PortsIn) : Inv (busy p) where
  legal := show legalConfig Config.default = true by decide
  boundary := show boundaryOk (busy PortsIn.idle) = true by decide
  status := rfl
  data := ⟨show isData 0x40 = true by decide, show isData 0x7F = true by decide⟩
  buffer := ⟨rfl, rfl⟩
  filled := by
    intro _ k hk
    change k < 2 at hk
    interval_cases k <;> rfl
  words := by
    intro w hw
    change w ∈ [midiWord 0x90 0x40 0x7F, buttonWord 0 .short] at hw
    simp only [List.mem_cons, List.not_mem_nil, or_false] at hw
    rcases hw with rfl | rfl
    · exact .inl ⟨0x90, 0x40, 0x7F, by decide, by decide, by decide, rfl⟩
    · exact .inr ⟨.short, rfl⟩

/-- The premises that most statements about a step share. -/
theorem busy_legal (p : PortsIn) : legalConfig (busy p).cfg = true := show legalConfig Config.default = true by decide
theorem busy_boundary (p : PortsIn) : boundaryOk (busy p) = true := (busy_inv p).boundary

theorem witness_WrittenWordsDecode : ({ Config.default with btnId := 3 } : Config).btnId = 3 := rfl

theorem witness_DecodeOfEncode : (Instr.cfgRsvd 3 0xFFFFFFFF).wf = true ∧ (Instr.outPushMidi 0xEF 0x7F 0x7F).wf = true
    ∧ (Instr.data 0x7F).wf = true := by decide

theorem witness_EncodeOfDecode (cfg : Config) :
    decode cfg (.midiByte 0xFF) = .ok .rtFF ∧ decode cfg (.outWord (midiWord 0x80 0x7F 0)) = .ok (.outPushMidi 0x80 0x7F 0)
    ∧ decode cfg (.ports { PortsIn.idle with tick := true }) = .ok .tick := ⟨rfl, rfl, rfl⟩

theorem witness_PowerOnValues : ∃ s t : State, s.cfg = Config.default ∧ exec .rst s = .next t := ⟨busy allIn, _, rfl, rfl⟩

/-- The boundary cases of R7's ranges are legal. -/
theorem witness_PowerOnMeetsInvariant :
    legalConfig ⟨1, 1, 1, 1, 0, 1, 0, 0, 0, 0⟩ = true ∧ legalConfig ⟨1, 1, 1, 1, 9, 9, 127, 255, 0xFFFF, 3⟩ = true := by decide

theorem witness_StepKeepsInvariant : ∃ s t : State, Inv s ∧ step s = .next t := by
  obtain ⟨t, ht⟩ := next_of_isSome (r := step (busy allIn)) (by decide)
  exact ⟨_, t, busy_inv allIn, ht⟩

theorem witness_StepNeverStops : ∃ s : State, Inv s := ⟨_, busy_inv allIn⟩

theorem witness_RunsFromPowerOnNeverStop : legalConfig Config.default = true := by decide

theorem witness_CountersFitTheirWidths : ∃ s : State, Inv s ∧ s.idx = 2 ∧ s.brem = 1 := ⟨_, busy_inv allIn, rfl, rfl⟩

/-- Each clause of R158 just outside its range. -/
theorem witness_IllegalParametersRefused :
    ({ Config.default with serDepth := 0 }).serDepth = 0 ∧ ({ Config.default with btnDepth := 0 }).btnDepth = 0
    ∧ ({ Config.default with outDepth := 0 }).outDepth = 0 ∧ ({ Config.default with sysexCap := 0 }).sysexCap = 0
    ∧ ({ Config.default with vlongTicks := 0 }).vlongTicks = 0
    ∧ ({ Config.default with longTicks := 11 }).longTicks > Config.default.vlongTicks
    ∧ ({ Config.default with modCcId := 128 }).modCcId > 127 ∧ ({ Config.default with btnId := 256 }).btnId > 255
    ∧ ({ Config.default with maskReset := 0x10000 }).maskReset > 0xFFFF
    ∧ ({ Config.default with modeReset := 4 }).modeReset > 3 := by decide

/-- Each clause of R153 just outside its range, in a legal instance. -/
theorem witness_UnreachableBoundaryFaults :
    legalConfig State.reset.cfg = true ∧ (btn .timing 0).brem = 0 ∧ (btn .timing 11).brem > State.reset.cfg.vlongTicks
    ∧ (btn .idle 1).brem ≠ 0 ∧ (dec .awaitStatus 0 0 5 []).idx > State.reset.cfg.sysexCap
    ∧ (queues [1, 2, 3, 4, 5] [] [] PortsIn.idle).serq.length > State.reset.cfg.serDepth
    ∧ (queues [] [.falling, .falling, .falling] [] PortsIn.idle).btnq.length > State.reset.cfg.btnDepth
    ∧ (queues [] [] [1, 2, 3, 4, 5] PortsIn.idle).outq.length > State.reset.cfg.outDepth := by decide

theorem witness_StepIsCycleOfR142 : ∃ s : State, legalConfig s.cfg = true ∧ boundaryOk s = true :=
  ⟨_, busy_legal allIn, busy_boundary allIn⟩

theorem witness_StepRunsDecodedByte : ∃ (s t u : State) (b : Byte) (q : List Byte),
    legalConfig s.cfg = true ∧ boundaryOk s = true ∧ (nextInputs s).rst = false ∧ (nextInputs s).decClear = false
    ∧ (nextInputs s).decRun = true ∧ s.serq = b :: q ∧ pushPhase (nextInputs s) (beginCycle s) = .next t
    ∧ exec .serPop t = .next u :=
  ⟨busy allIn, _, _, 0xF7, [0x40], busy_legal allIn, busy_boundary allIn, rfl, rfl, rfl, rfl, rfl, rfl⟩

/-- The port requests that the statement covers, one of each. -/
theorem witness_StepRunsPortRequest : ∀ x ∈ [({ PortsIn.idle with serPush := true, serData := 7 }, Instr.serPush 7),
      ({ PortsIn.idle with btnPush := true }, .btnPush .falling), ({ PortsIn.idle with tick := true }, .tick),
      ({ PortsIn.idle with cfgWe := true, cfgValue := 4 }, .cfgMode 4), ({ PortsIn.idle with outPop := true }, .outPop)]
      ++ [({ PortsIn.idle with cfgWe := true, cfgSel := 1, cfgValue := 4 }, Instr.cfgMask 4),
      ({ PortsIn.idle with cfgWe := true, cfgSel := 2, cfgValue := 4 }, .cfgRsvd 2 4),
      ({ PortsIn.idle with decClear := true, decRun := true }, .decClear), ({ allIn with rst := true }, .rst)],
    legalConfig (busy x.1).cfg = true ∧ boundaryOk (busy x.1) = true
      ∧ decode (busy x.1).cfg (.ports (nextInputs (busy x.1))) = .ok x.2 ∧ x.2 ≠ .serPop ∧ x.2 ≠ .btnPop := by
  intro x hx
  refine ⟨busy_legal _, busy_boundary _, ?_⟩
  simp only [List.cons_append, List.nil_append, List.mem_cons, List.not_mem_nil, or_false] at hx
  rcases hx with rfl | rfl | rfl | rfl | rfl | rfl | rfl | rfl | rfl <;> exact ⟨rfl, by decide, by decide⟩

theorem witness_StepRunsDecodedEdge : ∃ (s : State) (e : Edge) (q : List Edge), legalConfig s.cfg = true
    ∧ boundaryOk s = true ∧ nextInputs s = { PortsIn.idle with btnRun := true } ∧ s.btnq = e :: q :=
  ⟨busy { PortsIn.idle with btnRun := true }, .rising, [], busy_legal _, busy_boundary _, rfl, rfl⟩

/-- The hypotheses of the statements about a step without reset: ParametersNeverChange, IngressQueuesObeyFifoLaw,
OutputQueueMergesInOrder, QueuesKeepOrder, ConfigurationPortOfCycle, ModeHasNoEffect, OutputPortsOfCycle,
AtMostFourDropsInACycle. -/
theorem witness_StepWithoutReset : ∃ s t : State, step s = .next t ∧ (nextInputs s).rst = false
    ∧ t.sig.ev = some (.sysEx [1, 2] 2) ∧ t.sig.bev = some .veryLong ∧ t.cmask = 0x0001 ∧ t.serq = [0x40, 0x41] := by
  obtain ⟨t, ht, h⟩ := next_with (r := step (busy allIn))
    (P := fun t => t.sig.ev = some (.sysEx [1, 2] 2) ∧ t.sig.bev = some .veryLong ∧ t.cmask = 0x0001 ∧ t.serq = [0x40, 0x41])
    (by decide)
  exact ⟨_, t, ht, rfl, h⟩

/-- Both halves: a SysEx of the full capacity over written bytes, and a terminator outside one. -/
theorem witness_SysExEndEmitsAccumulatedBytes :
    (∃ s : State, s.ds = .awaitSysEx ∧ s.idx = s.cfg.sysexCap ∧ ∀ k, k < s.idx → (Memory.read s.buf k).isSome)
    ∧ (dec .awaitStatus 0 0 0 []).ds ≠ .awaitSysEx := by
  refine ⟨⟨dec .awaitSysEx 0xF0 0 4 [(0, 1), (1, 2), (2, 3), (3, 4)], rfl, rfl, ?_⟩, by decide⟩
  intro k hk
  change k < 4 at hk
  interval_cases k <;> rfl

/-- A state on either side: one that faults, with an entry below `IDX` not written, and one that does not. -/
theorem witness_SysExEndFaultsOnUnwritten :
    (dec .awaitSysEx 0xF0 0 1 []).ds = .awaitSysEx ∧ Memory.read (dec .awaitSysEx 0xF0 0 1 []).buf 0 = none
    ∧ (dec .awaitSysEx 0xF0 0 5 [(0, 1), (1, 2), (2, 3), (3, 4)]).cfg.sysexCap ≤ 4
    ∧ (nextOf (exec .sysexEnd (busy allIn))).isSome = true := by decide

theorem witness_DataByteInEveryState : (dec .awaitStatus 0 0 0 []).ds = .awaitStatus
    ∧ (dec .awaitSysEx 0xF0 0 3 []).ds = .awaitSysEx ∧ (dec .awaitSysEx 0xF0 0 3 []).idx < State.reset.cfg.sysexCap
    ∧ ¬ (dec .awaitSysEx 0xF0 0 4 []).idx < State.reset.cfg.sysexCap
    ∧ (dec .awaitFirstData 0x90 0 0 []).ds = .awaitFirstData ∧ (dec .awaitSecondData 0x90 0x40 0 []).ds = .awaitSecondData
    ∧ (dec .awaitSingleData 0xC0 0 0 []).ds = .awaitSingleData := by decide

/-- The last free entry, and the full accumulator. -/
theorem witness_SysExDataAppendsOrOverflows :
    (dec .awaitSysEx 0xF0 0 3 []).ds = .awaitSysEx ∧ (dec .awaitSysEx 0xF0 0 3 []).idx < State.reset.cfg.sysexCap
    ∧ ¬ (dec .awaitSysEx 0xF0 0 4 []).idx < State.reset.cfg.sysexCap := by decide

theorem witness_OnlySysExDataWritesBuf : ∃ (i : Instr) (s t : State), exec i s = .next t
    ∧ ¬ (s.ds = .awaitSysEx ∧ s.idx < s.cfg.sysexCap ∧ ∃ v, i = .data v) := by
  refine ⟨.noteOn 5, busy allIn, _, rfl, ?_⟩
  rintro ⟨-, -, v, h⟩
  cases h

theorem witness_AtMostTwoDispatches : (2 ≤ 2 ∧ isData 0x00 = true)
    ∧ ∃ (b : Byte) (s t : State), exec (decodeByte b) s = .next t ∧ isData b = false ∧ isRealTime b = false
      ∧ t.sig.ev.isSome := by
  obtain ⟨t, ht, h⟩ := next_with (r := exec (decodeByte 0xF7) (busy allIn)) (P := fun t => t.sig.ev.isSome = true) (by decide)
  exact ⟨by decide, 0xF7, _, t, ht, by decide, by decide, h⟩

/-- S3: a byte sequence with a real-time byte inside a message runs. -/
theorem witness_RealTimeTransparency : ∃ os t, feedBytes [0x90, 0xF8, 0x40, 0x7F] State.reset = some (os, t)
    ∧ os = [(none, false), (some (.realTime 0xF8), false), (none, false), (some (.twoData 0x90 0x40 0x7F), false)] :=
  ⟨_, _, rfl, rfl⟩

theorem witness_EventsCarryMatchingStatus : ∃ (b : Byte) (s t : State), runningStatusOk s = true
    ∧ exec (decodeByte b) s = .next t ∧ t.sig.ev = some (.twoData 0x90 0x40 0x7F) :=
  ⟨0x7F, dec .awaitSecondData 0x90 0x40 0 [], _, by decide, rfl, rfl⟩

/-- After an overflow, with a terminator among the bytes. -/
theorem witness_NoSysExEventBeforeNewStart : ∃ os t, (dec .awaitStatus 0xF0 0 0 [(0, 1)]).ds ≠ .awaitSysEx
    ∧ 0xF0#8 ∉ [0x03#8, 0xF7#8] ∧ feedBytes [0x03, 0xF7] (dec .awaitStatus 0xF0 0 0 [(0, 1)]) = some (os, t) :=
  ⟨_, _, by decide, by decide, rfl⟩

theorem witness_ClearedDecoderIsFresh : (∃ s t : State, exec .decClear s = .next t ∧ s.ds = .awaitSysEx)
    ∧ ∃ s t : State, exec .rst s = .next t ∧ s.ds = .awaitSysEx :=
  ⟨⟨busy allIn, _, rfl, rfl⟩, ⟨busy allIn, _, rfl, rfl⟩⟩

theorem witness_TickCountsDownAndExpires : ((btn .timing 2).bs = .timing ∧ 2 ≤ (btn .timing 2).brem)
    ∧ ((btn .timing 1).bs = .timing ∧ (btn .timing 1).brem = 1) ∧ (btn .idle 0).bs = .idle := by decide

/-- 6 = `VLONG_TICKS` - `LONG_TICKS` is Long, 7 is Short. -/
theorem witness_ReleaseClassifiesPress : (btn .timing 7).brem > State.reset.cfg.vlongTicks - State.reset.cfg.longTicks
    ∧ (btn .timing 6).brem ≤ State.reset.cfg.vlongTicks - State.reset.cfg.longTicks ∧ (btn .idle 0).bs = .idle := by decide

theorem witness_PressLengthInTicks : ∃ (s p : State) (k : Nat), legalConfig s.cfg = true ∧ exec .btnFall s = .next p
    ∧ k < s.cfg.vlongTicks := ⟨State.reset, _, 9, by decide, rfl, by decide⟩

/-- Both clauses: a last tick with a release waiting, and an idle classifier. -/
theorem witness_ExpiryWinsOverRelease :
    (∃ s t : State, step s = .next t ∧ (nextInputs s).rst = false ∧ s.bs = .timing ∧ s.brem = 1
      ∧ (nextInputs s).tick = true ∧ (nextInputs s).btnRun = true ∧ s.btnq.head? = some .rising)
    ∧ ∃ s t : State, step s = .next t ∧ (nextInputs s).rst = false ∧ s.bs = .idle := by
  obtain ⟨t, ht⟩ := next_of_isSome (r := step (busy allIn)) (by decide)
  obtain ⟨u, hu⟩ := next_of_isSome (r := step (queues [1] [.rising] [] allIn)) (by decide)
  exact ⟨⟨_, t, ht, rfl, rfl, rfl, rfl, rfl, rfl⟩, ⟨_, u, hu, rfl, rfl⟩⟩

/-- A queue with one place left, and a full one, for each queue. -/
theorem witness_PushAcceptsOrDrops :
    (queues [1, 2, 3] [] [] allIn).serq.length < State.reset.cfg.serDepth
    ∧ ¬ (queues [1, 2, 3, 4] [] [] allIn).serq.length < State.reset.cfg.serDepth
    ∧ (queues [] [.falling] [] allIn).btnq.length < State.reset.cfg.btnDepth
    ∧ ¬ (queues [] [.falling, .rising] [] allIn).btnq.length < State.reset.cfg.btnDepth
    ∧ (queues [] [] [1, 2, 3] allIn).outq.length < State.reset.cfg.outDepth
    ∧ ¬ (queues [] [] [1, 2, 3, 4] allIn).outq.length < State.reset.cfg.outDepth := by decide

theorem witness_PopTakesHead : (busy allIn).serq = 0xF7 :: [0x40] ∧ (busy allIn).btnq = [.rising]
    ∧ (busy allIn).outq = midiWord 0x90 0x40 0x7F :: [buttonWord 0 .short] ∧ State.reset.serq = [] ∧ State.reset.btnq = []
    ∧ State.reset.outq = [] := ⟨rfl, rfl, rfl, rfl, rfl, rfl⟩

/-- The boundary values of the two ranges. -/
theorem witness_ConfigurationWrites : (0xFFFF#32).toNat ≤ 0xFFFF ∧ 0xFFFF < (0x10000#32).toNat ∧ (3#32).toNat ≤ 3
    ∧ 3 < (4#32).toNat := by decide

theorem witness_ResetCycle : ∃ s : State, legalConfig s.cfg = true ∧ boundaryOk s = true ∧ (nextInputs s).rst = true :=
  ⟨busy { allIn with rst := true }, busy_legal _, busy_boundary _, rfl⟩

theorem witness_DecoderClearCycle : ∃ s t : State, step s = .next t ∧ (nextInputs s).rst = false
    ∧ (nextInputs s).decClear = true ∧ s.serq = [0xF7, 0x40] := by
  obtain ⟨t, ht⟩ := next_of_isSome (r := step (busy { allIn with decClear := true })) (by decide)
  exact ⟨_, t, ht, rfl, rfl, rfl⟩

/-- The pulse, and a cycle without it. -/
theorem witness_OverflowPulseExactly :
    (∃ s t : State, step s = .next t ∧ t.out.sysexOvf = true) ∧ ∃ s t : State, step s = .next t ∧ t.out.sysexOvf = false := by
  obtain ⟨t, ht, h⟩ := next_with (P := fun t => t.out.sysexOvf = true)
    (r := step { queues [5] [] [] { PortsIn.idle with decRun := true } with ds := .awaitSysEx, rs := 0xF0, idx := 4 }) (by decide)
  obtain ⟨u, hu, g⟩ := next_with (r := step (busy allIn)) (P := fun t => t.out.sysexOvf = false) (by decide)
  exact ⟨⟨_, t, ht, h⟩, ⟨_, u, hu, g⟩⟩

theorem witness_QuiescentEmitsNothing : ∃ s t : State, quiescent s = true ∧ (nextInputs s).serPush = false
    ∧ (nextInputs s).btnPush = false ∧ step s = .next t ∧ s.outq = [7] := by
  obtain ⟨t, ht⟩ := next_of_isSome (r := step (queues [] [] [7] { PortsIn.idle with decRun := true, tick := true })) (by decide)
  exact ⟨_, t, by decide, rfl, rfl, ht, rfl⟩

/-- An instruction of each owner that the statement's clauses speak of. -/
theorem witness_RegistersWrittenByTheirOwnersOnly : ∀ i ∈ [Instr.noteOn 1, .sysexEnd, .btnFall, .tick, .cfgMask 5, .cfgMode 3,
    .serPush 1, .btnPush .rising, .serPop, .btnPop, .outPop, .outPushBtn .long], ∃ t, exec i (busy allIn) = .next t := by
  intro i hi
  apply next_of_isSome
  revert i
  decide

end Sys2Proof.Tests
end

section
/-! PROOFS. The statements of spec/00_scope.md: the byte sets of R12, the derived widths of R8, and the parameters of R7. -/

namespace Sys2Proof.Machine

/-! ## The byte sets (R12) -/

/-- The high nibble as a number. -/
theorem kindOf_toNat (b : Byte) : (kindOf b).toNat = b.toNat / 16 := by
  have hb : b.toNat / 16 < 16 := by omega
  simpa [kindOf, Nat.shiftRight_eq_div_pow] using hb

/-- A test of the high nibble is a test of the number `b / 16`. -/
theorem kindOf_beq_iff (b : Byte) (k : BitVec 4) : (kindOf b == k) = true ↔ b.toNat / 16 = k.toNat := by
  rw [beq_iff_eq, BitVec.toNat_eq, kindOf_toNat]

theorem isData_iff (b : Byte) : isData b = true ↔ b.toNat < 0x80 := by
  have hmsb : b.getLsbD 7 = decide (0x80 ≤ b.toNat) := BitVec.msb_eq_decide b
  rw [isData, hmsb, Bool.not_eq_true', decide_eq_false_iff_not, Nat.not_le]

theorem isRealTime_iff (b : Byte) : isRealTime b = true ↔ b ∈ [0xF8#8, 0xFA#8, 0xFB#8, 0xFC#8, 0xFF#8] := by
  simp [isRealTime, or_assoc]

theorem isOne_iff (b : Byte) : isOne b = true ↔ b.toNat / 16 ∈ [0xC, 0xD] ∨ b ∈ [0xF1#8, 0xF3#8] := by
  simp only [isOne, Bool.or_eq_true, kindOf_beq_iff]
  simp [or_assoc]

theorem isTwo_iff (b : Byte) : isTwo b = true ↔ b.toNat / 16 ∈ [0x8, 0x9, 0xA, 0xB, 0xE] ∨ b = 0xF2#8 := by
  simp only [isTwo, Bool.or_eq_true, kindOf_beq_iff]
  simp [or_assoc]

theorem isSysExStart_iff (b : Byte) : isSysExStart b = true ↔ b = 0xF0#8 := by simp [isSysExStart]

/-- `UNREC` by its members: what the other sets leave of the 256 bytes. -/
theorem isUnrec_iff_mem : ∀ b : Byte,
    isUnrec b = true ↔ b ∈ [0xF4#8, 0xF5#8, 0xF6#8, 0xF7#8, 0xF9#8, 0xFD#8, 0xFE#8] := by decide

/-- `UNREC` as a complement among the status bytes. -/
theorem isUnrec_iff_complement (b : Byte) : isUnrec b = true ↔ 0x80 ≤ b.toNat
    ∧ isRealTime b = false ∧ isOne b = false ∧ isTwo b = false ∧ isSysExStart b = false := by
  have hstatus : isData b = false ↔ 0x80 ≤ b.toNat := by
    rw [← Bool.not_eq_true, isData_iff, Nat.not_lt]
  simp [isUnrec, ← hstatus, and_assoc]

theorem decodeByte_eq_sysexEnd_iff : ∀ b : Byte, decodeByte b = .sysexEnd ↔ b = 0xF7#8 := by decide

theorem realTime_is_status : ∀ b : Byte, isRealTime b = true →
    isData b = false ∧ isOne b = false ∧ isTwo b = false ∧ isSysExStart b = false := by decide

/-- Exactly one set holds: the first five are disjoint, and `UNREC` holds where none of them does. -/
theorem exactly_one_byteSet (b : Byte) :
    ([isData b, isRealTime b, isOne b, isTwo b, isSysExStart b, isUnrec b].filter id).length = 1 := by
  by_cases hr : isRealTime b = true
  · simp [isUnrec, hr, realTime_is_status b hr]
  by_cases h1 : isOne b = true
  · simp [isUnrec, h1, one_is_status b h1]
  by_cases h2 : isTwo b = true
  · simp [isUnrec, h2, two_is_status b h2]
  by_cases hs : isSysExStart b = true
  · obtain rfl := (isSysExStart_iff b).1 hs
    rfl
  by_cases hd : isData b = true <;> simp [isUnrec, hr, h1, h2, hs, hd]

/-- Settles O2: one lemma per set of R12. -/
theorem byteSetsPartition : Obligations.ByteSetsPartition := fun b =>
  ⟨isData_iff b, isRealTime_iff b, isOne_iff b, isTwo_iff b, isSysExStart_iff b, isUnrec_iff_mem b,
    isUnrec_iff_complement b, decodeByte_eq_sysexEnd_iff b, exactly_one_byteSet b⟩

/-! ## The derived widths (R8) -/

/-- A register as wide as R8 derives for 0..n holds each of those values. -/
theorem lt_two_pow_widthFor {k n : Nat} (h : k ≤ n) : k < 2 ^ widthFor n := by
  by_cases hn : n = 0
  · subst hn
    simpa [widthFor] using h
  · rw [widthFor, if_neg hn]
    exact h.trans_lt Nat.lt_log2_self

/-- What a legal boundary says, clause by clause (R153). -/
theorem boundaryOk_iff (s : State) : boundaryOk s = true ↔ timerOk s = true ∧ s.idx ≤ s.cfg.sysexCap
    ∧ s.serq.length ≤ s.cfg.serDepth ∧ s.btnq.length ≤ s.cfg.btnDepth ∧ s.outq.length ≤ s.cfg.outDepth := by
  simp [boundaryOk, and_assoc]

/-- Whether a press is timed or not, `BREM` is at most `VLONG_TICKS` (R28). -/
theorem brem_le_of_timerOk {s : State} (h : timerOk s = true) : s.brem ≤ s.cfg.vlongTicks := by
  cases hb : s.bs with
  | idle =>
    have hzero : s.brem = 0 := by simpa [timerOk, hb] using h
    omega
  | timing =>
    have hrange : 1 ≤ s.brem ∧ s.brem ≤ s.cfg.vlongTicks := by simpa [timerOk, hb] using h
    exact hrange.2

/-- Settles O14: the invariant bounds both counters (R23, R28), and the widths of R8 hold what is within the bounds. -/
theorem countersFitTheirWidths : Obligations.CountersFitTheirWidths := by
  intro s hs
  obtain ⟨htimer, hidx, -⟩ := (boundaryOk_iff s).1 hs.boundary
  exact ⟨lt_two_pow_widthFor hidx, lt_two_pow_widthFor (brem_le_of_timerOk htimer)⟩

/-! ## The parameters (R7) and the inputs (R141) -/

@[simp] theorem withCodes_cfg (cs : List ErrorCode) (s : State) : (withCodes cs s).cfg = s.cfg := rfl
@[simp] theorem withCodes_inputs (cs : List ErrorCode) (s : State) : (withCodes cs s).inputs = s.inputs := rfl
@[simp] theorem finishR142_cfg (p : PortsIn) (s d : State) : (finishR142 p s d).cfg = d.cfg := rfl
@[simp] theorem finishR142_inputs (p : PortsIn) (s d : State) : (finishR142 p s d).inputs = d.inputs := rfl

/-- The reset cycle keeps the parameters and takes one cycle of inputs (R170). -/
theorem cycleR142_reset_frame {p : PortsIn} {s t : State} (hr : p.rst = true) (h : cycleR142 p s = .next t) :
    t.cfg = s.cfg ∧ t.inputs = s.inputs.tail := by
  rw [cycleR142, if_pos hr] at h
  cases h
  exact ⟨rfl, rfl⟩

/-- Settles O19: the cycle's beginning takes the inputs, and neither a reset cycle nor the phases of a running one write
them or the parameters. -/
theorem parametersNeverChange : Obligations.ParametersNeverChange := by
  intro s t h
  obtain ⟨hr, hreset⟩ | ⟨-, d, cs, -, -, frame, rfl⟩ := step_cases h
  · exact cycleR142_reset_frame hr hreset
  · exact ⟨by simpa using frame.cfg, by simpa using frame.inputs⟩

end Sys2Proof.Machine
end

section
/-! PROOFS. Of the statements of spec/10_state.md: the reset values (R40) and the invariants of the cycle boundary (R18, R23 to
R25, R28, R127). -/

namespace Sys2Proof.Machine

/-! ## The decoder's part of the invariant (R23, R24, R25) -/

/-- The clauses of `Inv` that speak of the decoder's registers and `BUF`. -/
structure DecoderInv (s : State) : Prop where
  status : runningStatusOk s = true
  d0 : isData s.d0 = true
  d1 : isData s.d1 = true
  idx : s.idx ≤ s.cfg.sysexCap
  canonical : Memory.wf s.buf = true
  within : Memory.within s.cfg.sysexCap s.buf = true
  filled : sysExFilled s

theorem Inv.decoder {s : State} (h : Inv s) : DecoderInv s :=
  ⟨h.status, h.data.1, h.data.2, ((boundaryOk_iff s).1 h.boundary).2.1, h.buffer.1, h.buffer.2, h.filled⟩

/-- Two states with the same decoder registers, `BUF` and capacity meet the decoder's invariant together. -/
theorem DecoderInv.congr {s t : State} (h : DecoderInv s) (hds : t.ds = s.ds) (hrs : t.rs = s.rs) (hd0 : t.d0 = s.d0)
    (hd1 : t.d1 = s.d1) (hidx : t.idx = s.idx) (hbuf : t.buf = s.buf) (hcap : t.cfg.sysexCap = s.cfg.sysexCap) :
    DecoderInv t where
  status := by simpa only [runningStatusOk, hds, hrs] using h.status
  d0 := hd0 ▸ h.d0
  d1 := hd1 ▸ h.d1
  idx := by simpa only [hidx, hcap] using h.idx
  canonical := hbuf ▸ h.canonical
  within := by simpa only [hbuf, hcap] using h.within
  filled := by simpa only [sysExFilled, hds, hidx, hbuf] using h.filled

/-- Outside `AwaitSysEx` no byte of a SysEx is asked for. -/
theorem sysExFilled_of_ne {s : State} (h : s.ds ≠ .awaitSysEx) : sysExFilled s := fun hs => absurd hs h

/-- The decoder's registers at their reset values meet its invariant over any `BUF` in canonical form. -/
theorem decoderInv_of_cleared {t : State} (hds : t.ds = .awaitStatus) (hrs : t.rs = 0x00) (hd0 : t.d0 = 0x00)
    (hd1 : t.d1 = 0x00) (hidx : t.idx = 0) (hwf : Memory.wf t.buf = true)
    (hwithin : Memory.within t.cfg.sysexCap t.buf = true) : DecoderInv t where
  status := by simp [runningStatusOk, hds, hrs]
  d0 := hd0 ▸ rfl
  d1 := hd1 ▸ rfl
  idx := by omega
  canonical := hwf
  within := hwithin
  filled := sysExFilled_of_ne (by simp [hds])

theorem clearDecoder_keeps_decoderInv {s : State} (h : DecoderInv s) : DecoderInv (clearDecoder s) :=
  decoderInv_of_cleared rfl rfl rfl rfl rfl h.canonical h.within

/-- In every decoder state `RS` is 0 or a status that starts a message, which is all that `AwaitStatus` asks (R25). -/
theorem runningStatusOk_awaitStatus {s t : State} (h : runningStatusOk s = true) (hds : t.ds = .awaitStatus)
    (hrs : t.rs = s.rs) : runningStatusOk t = true := by
  cases hs : s.ds <;> simp_all [runningStatusOk, isSysExStart]

/-- Classifying a status byte keeps the decoder's invariant: it latches the status with the state R25 asks for, starts a
SysEx with no byte, or awaits a status (R79). -/
theorem classifyStatus_keeps_decoderInv {b : Byte} (hd : isData b = false) (hr : isRealTime b = false) {s : State}
    (h : DecoderInv s) : DecoderInv (classifyStatus b s) := by
  obtain ⟨h1, e⟩ | ⟨h2, e⟩ | ⟨rfl, e⟩ | ⟨-, e⟩ := classifyStatus_cases hd hr s <;> rw [e]
  · exact ⟨h1, h.d0, h.d1, h.idx, h.canonical, h.within, sysExFilled_of_ne nofun⟩
  · exact ⟨h2, h.d0, h.d1, h.idx, h.canonical, h.within, sysExFilled_of_ne nofun⟩
  · exact ⟨rfl, h.d0, h.d1, Nat.zero_le _, h.canonical, h.within, fun _ k hk => absurd hk (Nat.not_lt_zero k)⟩
  · exact ⟨runningStatusOk_awaitStatus h.status rfl rfl, h.d0, h.d1, h.idx, h.canonical, h.within, sysExFilled_of_ne nofun⟩

/-- Appending a data byte keeps the decoder's invariant: the byte written is the one that the new `IDX` adds (R24, R76). -/
theorem append_keeps_decoderInv {s : State} (b : Byte) (h : DecoderInv s) (hs : s.ds = .awaitSysEx)
    (hi : s.idx < s.cfg.sysexCap) :
    DecoderInv { beginFeed s with buf := Memory.write s.buf s.idx b, idx := s.idx + 1 } where
  status := h.status
  d0 := h.d0
  d1 := h.d1
  idx := hi
  canonical := Memory.wf_write _ _ _ h.canonical
  within := Memory.within_write _ _ _ _ hi h.within
  filled := by
    intro _ k (hk : k < s.idx + 1)
    by_cases hlast : k = s.idx
    · simp [hlast]
    · simpa [hlast] using h.filled hs k (by omega)

/-- While a message of two data bytes is awaited, `RS` is its status (R25). -/
theorem isTwo_of_runningStatusOk {s : State} (h : runningStatusOk s = true)
    (hs : s.ds = .awaitFirstData ∨ s.ds = .awaitSecondData) : isTwo s.rs = true := by
  obtain hs | hs := hs <;> simpa [runningStatusOk, hs] using h

/-- Every feed keeps the decoder's invariant. -/
theorem feed_keeps_decoderInv {b : Byte} {s t : State} (h : DecoderInv s) (hf : feed b s = .next t) : DecoderInv t := by
  obtain ⟨-, rfl⟩ | ⟨-, -, rfl⟩ | ⟨hd, hs, rfl⟩ | ⟨hd, hs, rfl⟩ | ⟨-, -, rfl⟩ | ⟨-, hs, hi, rfl⟩ | ⟨-, -, -, rfl⟩
    | ⟨hd, hr, -, rfl⟩ | ⟨rfl, -, bytes, -, rfl⟩ := feed_cases hf
  · exact h.congr rfl rfl rfl rfl rfl rfl rfl
  · exact h.congr rfl rfl rfl rfl rfl rfl rfl
  · exact ⟨isTwo_of_runningStatusOk (s := s) h.status (.inl hs), hd, h.d1, h.idx, h.canonical, h.within, sysExFilled_of_ne nofun⟩
  · exact ⟨isTwo_of_runningStatusOk (s := s) h.status (.inr hs), h.d0, hd, h.idx, h.canonical, h.within, sysExFilled_of_ne nofun⟩
  · exact h.congr rfl rfl rfl rfl rfl rfl rfl
  · exact append_keeps_decoderInv b h hs hi
  · exact ⟨runningStatusOk_awaitStatus h.status rfl rfl, h.d0, h.d1, Nat.zero_le _, h.canonical, h.within,
      sysExFilled_of_ne nofun⟩
  · exact classifyStatus_keeps_decoderInv hd hr (h.congr rfl rfl rfl rfl rfl rfl rfl)
  · exact classifyStatus_keeps_decoderInv rfl rfl (h.congr rfl rfl rfl rfl rfl rfl rfl)

/-- What the decoder's part of a running cycle can have done: clear, feed one byte, or nothing (R142). -/
theorem decoderR142_cases {p : PortsIn} {s d : State} (h : decoderR142 p s = .next d) :
    d = clearDecoder (beginCycle s) ∨ (∃ b, feed b (beginCycle s) = .next d) ∨ d = beginCycle s := by
  unfold decoderR142 at h
  split at h
  · cases h; exact .inl rfl
  · split at h
    · exact .inr (.inl ⟨_, h⟩)
    · cases h; exact .inr (.inr rfl)

theorem decoderR142_keeps_decoderInv {p : PortsIn} {s d : State} (h : DecoderInv s) (hd : decoderR142 p s = .next d) :
    DecoderInv d := by
  have hbegin : DecoderInv (beginCycle s) := h.congr rfl rfl rfl rfl rfl rfl rfl
  obtain rfl | ⟨b, hf⟩ | rfl := decoderR142_cases hd
  · exact clearDecoder_keeps_decoderInv hbegin
  · exact feed_keeps_decoderInv hbegin hf
  · exact hbegin

/-! ## The words of `OUTQ` (R127) -/

@[simp] theorem classifyStatus_sig_ev (b : Byte) (s : State) : (classifyStatus b s).sig.ev = s.sig.ev := by
  unfold classifyStatus
  split_ifs <;> rfl

/-- A TwoData event carries `D0` and the data byte that was fed (R74). -/
theorem feed_twoData {b st x y : Byte} {s t : State} (hf : feed b s = .next t) (hev : t.sig.ev = some (.twoData st x y)) :
    x = s.d0 ∧ y = b ∧ isData b = true := by
  obtain ⟨-, rfl⟩ | ⟨-, -, rfl⟩ | ⟨-, -, rfl⟩ | ⟨hd, -, rfl⟩ | ⟨-, -, rfl⟩ | ⟨-, -, -, rfl⟩ | ⟨-, -, -, rfl⟩
    | ⟨-, -, -, rfl⟩ | ⟨-, -, bytes, -, rfl⟩ := feed_cases hf
  case inr.inr.inr.inl =>
    obtain ⟨-, rfl, rfl⟩ : s.rs = st ∧ s.d0 = x ∧ b = y := by simpa using hev
    exact ⟨rfl, rfl, hd⟩
  all_goals simp at hev

/-- The data of a TwoData event on the wires of a cycle are data bytes. -/
theorem decoderR142_twoData {p : PortsIn} {s d : State} (h : DecoderInv s) (hd : decoderR142 p s = .next d)
    {st x y : Byte} (hev : d.sig.ev = some (.twoData st x y)) : isData x = true ∧ isData y = true := by
  obtain rfl | ⟨b, hf⟩ | rfl := decoderR142_cases hd
  · simp at hev
  · obtain ⟨rfl, rfl, hb⟩ := feed_twoData hf hev
    exact ⟨h.d0, hb⟩
  · simp at hev

/-- The kinds that the filter passes are those of R127. -/
theorem passedStatus_of_kindPasses {cc : Nat} {status d0 : Byte} (h : kindPasses cc status d0 = true) :
    passedStatus status = true := by
  simp only [kindPasses, kindOf, Bool.or_eq_true, Bool.and_eq_true] at h
  simp only [passedStatus, Bool.or_eq_true]
  tauto

/-- What the filter passes is a TwoData event of a kind of R127, unchanged (R128, R132). -/
theorem filterEvent_eq_some {mask : BitVec 16} {cc : Nat} {ev : Option DecodedEvent} {status x y : Byte}
    (h : filterEvent mask cc ev = some (status, x, y)) : ev = some (.twoData status x y) ∧ passedStatus status = true := by
  unfold filterEvent at h
  split at h
  · split_ifs at h with hpass
    obtain ⟨rfl, rfl, rfl⟩ := by simpa using h
    simp only [Bool.and_eq_true] at hpass
    exact ⟨rfl, passedStatus_of_kindPasses hpass.2⟩
  all_goals cases h

/-- The filter asks `OUTQ` for well-formed words only. -/
theorem midiRequest_wordOk {cfg : Config} {mask : BitVec 16} {ev : Option DecodedEvent}
    (hdata : ∀ {st x y}, ev = some (.twoData st x y) → isData x = true ∧ isData y = true) :
    ∀ w ∈ midiRequest cfg mask ev, outWordOk cfg w := by
  intro w hw
  unfold midiRequest at hw
  split at hw
  · rename_i status x y hpass
    obtain ⟨hev, hstatus⟩ := filterEvent_eq_some hpass
    obtain ⟨hx, hy⟩ := hdata hev
    exact .inl ⟨status, x, y, hstatus, hx, hy, by simpa using hw⟩
  · simp at hw

/-- The classifier asks `OUTQ` for well-formed words only. -/
theorem pressRequest_wordOk (cfg : Config) (bev : Option PressKind) : ∀ w ∈ pressRequest cfg bev, outWordOk cfg w := by
  intro w hw
  cases bev with
  | none => simp [pressRequest] at hw
  | some k => exact .inr ⟨k, by simpa [pressRequest] using hw⟩

/-- What a FIFO holds after a cycle it held before or was asked for. -/
theorem mem_fifoCycle {α : Type} {d : Nat} {q : List α} {pop : Bool} {ps : List α} {x : α}
    (h : x ∈ fifoCycle d q pop ps) : x ∈ q ∨ x ∈ ps := by
  rw [fifoCycle, List.mem_append] at h
  obtain h | h := h
  · split_ifs at h
    · exact .inl (List.mem_of_mem_tail h)
    · exact .inl h
  · exact .inr (mem_fifoAccept _ _ _ h)

/-! ## The classifier's part of the invariant (R28) -/

/-- R28 on the two registers alone. -/
def TimerAgrees (vlong : Nat) : ButtonState → Nat → Prop
  | .idle, n => n = 0
  | .timing, n => 1 ≤ n ∧ n ≤ vlong

theorem timerOk_iff (s : State) : timerOk s = true ↔ TimerAgrees s.cfg.vlongTicks s.bs s.brem := by
  cases hb : s.bs <;> simp [timerOk, TimerAgrees, hb]

/-- A cycle of the classifier keeps R28: a fall loads `VLONG_TICKS`, a rise and an expiry leave it idle at 0, and a tick
that does not expire leaves at least one (R105 to R109). -/
theorem classifyR105_timerAgrees {cfg : Config} (hv : 1 ≤ cfg.vlongTicks) (tick : Bool) (e : Option Edge)
    {bs : ButtonState} {n : Nat} (h : TimerAgrees cfg.vlongTicks bs n) :
    TimerAgrees cfg.vlongTicks (classifyR105 cfg tick e bs n).1 (classifyR105 cfg tick e bs n).2.1 := by
  match e, bs, tick with
  | some .falling, _, _ => exact ⟨hv, le_rfl⟩
  | some .rising, .idle, _ | none, .idle, _ => simpa [classifyR105] using h
  | some .rising, .timing, false => rfl
  | none, .timing, false => exact h
  | some .rising, .timing, true =>
    by_cases hexp : n - 1 = 0 <;> simp [classifyR105, hexp, TimerAgrees]
  | none, .timing, true =>
    obtain ⟨-, hn⟩ := h
    by_cases hexp : n - 1 = 0 <;> simp [classifyR105, hexp, TimerAgrees]
    omega

/-! ## The whole invariant -/

/-- The invariant from its parts: the decoder's, the classifier's, and the queues'. -/
theorem inv_of_parts {t : State} (hlegal : legalConfig t.cfg = true) (hdec : DecoderInv t)
    (htimer : TimerAgrees t.cfg.vlongTicks t.bs t.brem) (hser : t.serq.length ≤ t.cfg.serDepth)
    (hbtn : t.btnq.length ≤ t.cfg.btnDepth) (hout : t.outq.length ≤ t.cfg.outDepth)
    (hwords : ∀ w ∈ t.outq, outWordOk t.cfg w) : Inv t where
  legal := hlegal
  boundary := (boundaryOk_iff t).2 ⟨(timerOk_iff t).2 htimer, hdec.idx, hser, hbtn, hout⟩
  status := hdec.status
  data := ⟨hdec.d0, hdec.d1⟩
  buffer := ⟨hdec.canonical, hdec.within⟩
  filled := hdec.filled
  words := hwords

/-- A state with the registers and queues of power-on meets the invariant over any `BUF` in canonical form (R40, R170). -/
theorem inv_of_sameArch_powerOn {t : State} (hlegal : legalConfig t.cfg = true) (h : SameArch (State.powerOn t.cfg) t)
    (hwf : Memory.wf t.buf = true) (hwithin : Memory.within t.cfg.sysexCap t.buf = true) : Inv t := by
  have hser : t.serq = [] := h.serq
  have hbtn : t.btnq = [] := h.btnq
  have hout : t.outq = [] := h.outq
  refine inv_of_parts hlegal (decoderInv_of_cleared h.ds h.rs h.d0 h.d1 h.idx hwf hwithin) ?_ ?_ ?_ ?_ ?_
  · rw [h.bs, h.brem]
    rfl
  all_goals simp [hser, hbtn, hout]

/-- Settles O7: each field of the power-on state, and the reset's update of each. -/
theorem powerOnValues : Obligations.PowerOnValues := by
  intro cfg
  refine ⟨rfl, rfl, rfl, rfl, rfl, rfl, rfl, rfl, rfl, rfl, rfl, rfl, rfl, rfl, ?_⟩
  rintro s t rfl h
  cases h
  constructor <;> rfl

theorem start_inv {cfg : Config} (inputs : List PortsIn) (h : legalConfig cfg = true) : Inv (State.start cfg inputs) :=
  inv_of_sameArch_powerOn h (by constructor <;> rfl) rfl rfl

/-- Settles O8: `State.reset` is the power-on state under a legal parameter set with no inputs to come. -/
theorem powerOnMeetsInvariant : Obligations.PowerOnMeetsInvariant :=
  ⟨start_inv [] (cfg := Config.default) (by decide), fun _ inputs h => start_inv inputs h⟩

theorem one_le_vlongTicks {cfg : Config} (h : legalConfig cfg = true) : 1 ≤ cfg.vlongTicks := by
  simp only [legalConfig, Bool.and_eq_true, decide_eq_true_eq] at h
  omega

/-- The reset cycle leaves the registers and queues of power-on, and `BUF` as it was (R170). -/
theorem cycleR142_reset_keeps_inv {p : PortsIn} {s t : State} (h : Inv s) (hr : p.rst = true)
    (hc : cycleR142 p s = .next t) : Inv t := by
  rw [cycleR142, if_pos hr] at hc
  cases hc
  exact inv_of_sameArch_powerOn h.legal (by constructor <;> rfl) h.buffer.1 h.buffer.2

/-- A running cycle keeps the invariant, unit by unit. -/
theorem finishR142_keeps_inv {p : PortsIn} {s d : State} (h : Inv s) (hd : decoderR142 p s = .next d) :
    Inv (finishR142 p s d) := by
  have hcfg : d.cfg = s.cfg := (decoderR142_frame hd).cfg
  obtain ⟨htimer, -, hser, hbtn, hout⟩ := (boundaryOk_iff s).1 h.boundary
  have hdec : DecoderInv d := decoderR142_keeps_decoderInv h.decoder hd
  refine inv_of_parts ?_ (hdec.congr rfl rfl rfl rfl rfl rfl rfl) ?_ ?_ ?_ ?_ ?_ <;> rw [finishR142_cfg, hcfg]
  · exact h.legal
  · exact classifyR105_timerAgrees (one_le_vlongTicks h.legal) _ _ ((timerOk_iff s).1 htimer)
  · exact fifoCycle_length _ _ _ _ hser
  · exact fifoCycle_length _ _ _ _ hbtn
  · exact fifoCycle_length _ _ _ _ hout
  · intro w hw
    obtain hold | hnew := mem_fifoCycle hw
    · exact h.words w hold
    · obtain hmidi | hpress := List.mem_append.1 hnew
      · exact midiRequest_wordOk (decoderR142_twoData h.decoder hd) w hmidi
      · exact pressRequest_wordOk _ _ w hpress

/-- The invariant reads no error code. -/
theorem withCodes_inv {s : State} (cs : List ErrorCode) (h : Inv s) : Inv (withCodes cs s) :=
  ⟨h.legal, h.boundary, h.status, h.data, h.buffer, h.filled, h.words⟩

/-- Settles O9: the reset cycle brings power-on's registers, and a running cycle keeps each unit's part. -/
theorem stepKeepsInvariant : Obligations.StepKeepsInvariant := by
  intro s t h hstep
  obtain ⟨hr, hreset⟩ | ⟨-, d, cs, -, hd, -, rfl⟩ := step_cases hstep
  · exact cycleR142_reset_keeps_inv h hr hreset
  · exact withCodes_inv cs (finishR142_keeps_inv h hd)

end Sys2Proof.Machine
end

section
/-! PROOFS. What persists from cycle to cycle (spec/10_state.md R14, R37), and who writes which register (R15, R22, R36). -/

namespace Sys2Proof.Machine

/-! ## Wires and output ports (R14, R37) -/

/-- A state with other output ports. -/
def withPorts (o : Outputs) (s : State) : State := { s with out := o }

/-- The decoder neither reads nor writes an output port. -/
theorem feed_withPorts (b : Byte) (o : Outputs) (s : State) :
    feed b (withPorts o s) = andThen (feed b s) fun t => .next (withPorts o t) := by
  obtain ⟨f, hx, hy⟩ | ⟨t, u, cs, ht, hu, hagree, hev, hovf, htcodes, hucodes, hd1, hbuf⟩ :=
    feed_agrees (x := withPorts o s) (y := s) ⟨rfl, rfl, rfl, rfl, rfl, fun _ _ _ => rfl⟩ b
  · rw [hx, hy]; rfl
  · have ft := feed_frame ht
    have fu := feed_frame hu
    have hcodes : t.sig.codes = u.sig.codes := htcodes.trans hucodes.symm
    rw [ht, hu, andThen_next]
    have h : t = withPorts o u := by
      obtain ⟨_, _, _, _, _, _, _, _, _, _, _, _, _, _, _, ⟨_, _, _, _, _, _⟩, _, _⟩ := t
      obtain ⟨_, _, _, _, _, _, _, _, _, _, _, _, _, _, _, ⟨_, _, _, _, _, _⟩, _, _⟩ := u
      cases ft; cases fu; cases hagree
      simp_all [withPorts]
    rw [h]

/-- A cycle of R142 reads no wire and no output port of the cycle before. -/
theorem cycleR142_old_ports (p : PortsIn) (s : State) (g : Signals) (o : Outputs) :
    cycleR142 p { s with sig := g, out := o } = cycleR142 p s := by
  have hdec : decoderR142 p { s with sig := g, out := o } = andThen (decoderR142 p s) fun d => .next (withPorts o d) := by
    have hbegin : beginCycle { s with sig := g, out := o } = withPorts o (beginCycle s) := rfl
    have hpop : serPopR142 p { s with sig := g, out := o } = serPopR142 p s := rfl
    simp only [decoderR142, hpop, hbegin]
    split
    · rfl
    · generalize (if serPopR142 p s then s.serq.head? else none) = taken
      cases taken with
      | none => rfl
      | some b => exact feed_withPorts b o (beginCycle s)
  cases hr : p.rst
  · simp only [cycleR142, hr, hdec]
    cases decoderR142 p s <;> rfl
  · simp only [cycleR142, hr]
    rfl

/-- The model's cycle is that of R142, the error codes aside. -/
theorem cycle_forgetCodes (p : PortsIn) (s : State) :
    andThen (cycle p s) (fun t => .next (forgetCodes t)) = andThen (cycleR142 p s) fun t => .next (forgetCodes t) := by
  cases hr : p.rst with
  | true => rw [cycle_reset p s hr]
  | false =>
    obtain ⟨f, hd, hc⟩ | ⟨d, cs, -, hd, -, hc⟩ := cycle_running p s hr
    · simp [hc, cycleR142, hr, hd]
    · simp [hc, cycleR142, hr, hd]
      rfl

/-- Settles O20: the checks of a boundary read no wire and no port, and neither does the cycle. -/
theorem wiresAndPortsDoNotPersist : Obligations.WiresAndPortsDoNotPersist := by
  intro s g o
  have hcycle : andThen (cycle (nextInputs s) { s with sig := g, out := o }) (fun t => .next (forgetCodes t))
      = andThen (cycle (nextInputs s) s) fun t => .next (forgetCodes t) := by
    rw [cycle_forgetCodes, cycle_forgetCodes, cycleR142_old_ports]
  have hboundary : boundaryOk { s with sig := g, out := o } = boundaryOk s := rfl
  have hinputs : nextInputs { s with sig := g, out := o } = nextInputs s := rfl
  simp only [step, hboundary, hinputs]
  split_ifs
  · exact hcycle
  · rfl
  · rfl

/-! ## What an instruction writes (R15, R22, R36) -/

/-- The block reset's state (R170). -/
def resetState (s : State) : State :=
  { clearDecoder s with
    bs := .idle
    brem := 0
    serq := []
    btnq := []
    outq := []
    cmask := BitVec.ofNat 16 s.cfg.maskReset
    cmode := BitVec.ofNat 2 s.cfg.modeReset }

theorem exec_rst (s : State) : exec .rst s = .next (resetState s) := rfl

/-- What an instruction that answers a next state did to `s`, by the unit that owns it (R15). -/
inductive OwnerWrote (s : State) : Instr → State → Prop
  | decoder {i : Instr} {b : Byte} {t : State} (row : encode Config.default i = .midiByte b) (fed : feed b s = .next t) :
      OwnerWrote s i t
  | decClear : OwnerWrote s .decClear (clearDecoder s)
  | rst : OwnerWrote s .rst (resetState s)
  | classifier {i : Instr} (row : i = .btnFall ∨ i = .btnRise ∨ i = .tick) (bs : ButtonState) (n : Nat)
      (bev : Option PressKind) : OwnerWrote s i { s with bs := bs, brem := n, sig := { s.sig with bev := bev } }
  | cfgMask (v : BitVec 32) (mask : BitVec 16) : OwnerWrote s (.cfgMask v) { s with cmask := mask }
  | cfgMode (v : BitVec 32) (mode : BitVec 2) : OwnerWrote s (.cfgMode v) { s with cmode := mode }
  | cfgRsvd (sel : BitVec 2) (v : BitVec 32) : OwnerWrote s (.cfgRsvd sel v) s
  | serq {i : Instr} (row : (∃ b, i = .serPush b) ∨ i = .serPop) (q : List Byte) (b : Option Byte) (cs : List ErrorCode) :
      OwnerWrote s i { s with serq := q, sig := { s.sig with b := b, codes := cs } }
  | btnq {i : Instr} (row : (∃ e, i = .btnPush e) ∨ i = .btnPop) (q : List Edge) (e : Option Edge) (cs : List ErrorCode) :
      OwnerWrote s i { s with btnq := q, sig := { s.sig with e := e, codes := cs } }
  | outq {i : Instr} (row : (∃ a b c, i = .outPushMidi a b c) ∨ (∃ k, i = .outPushBtn k) ∨ i = .outPop) (q : List OutWord)
      (cs : List ErrorCode) : OwnerWrote s i { s with outq := q, sig := { s.sig with codes := cs } }

/-- Every instruction that answers a next state writes what its owner may write. -/
theorem exec_ownerWrote {i : Instr} {s t : State} (h : exec i s = .next t) : OwnerWrote s i t := by
  by_cases hrow : ∃ b, encode Config.default i = .midiByte b
  · obtain ⟨b, hb⟩ := hrow
    exact .decoder hb (exec_eq_feed _ hb s ▸ h)
  cases i
  case btnFall => cases h; exact .classifier (.inl rfl) _ _ s.sig.bev
  case btnRise =>
    simp only [exec, execBtnRise] at h
    split at h <;> cases h
    · exact .classifier (.inr (.inl rfl)) s.bs s.brem s.sig.bev
    · exact .classifier (.inr (.inl rfl)) _ _ _
  case tick =>
    simp only [exec, execTick] at h
    split at h
    · cases h; exact .classifier (.inr (.inr rfl)) s.bs s.brem s.sig.bev
    · split_ifs at h <;> cases h
      · exact .classifier (.inr (.inr rfl)) _ _ _
      · exact .classifier (.inr (.inr rfl)) s.bs _ s.sig.bev
  case cfgMode v =>
    simp only [exec, execCfgMode] at h
    split_ifs at h <;> cases h
    · exact .cfgMode v _
    · exact .cfgMode v s.cmode
  case cfgMask v =>
    simp only [exec, execCfgMask] at h
    split_ifs at h <;> cases h
    · exact .cfgMask v _
    · exact .cfgMask v s.cmask
  case cfgRsvd sel v => cases h; exact .cfgRsvd sel v
  case serPush b =>
    obtain ⟨cs, -, hpush⟩ := exec_serPush b s
    cases hpush.symm.trans h
    exact .serq (.inl ⟨b, rfl⟩) _ s.sig.b _
  case btnPush e =>
    obtain ⟨cs, -, hpush⟩ := exec_btnPush e s
    cases hpush.symm.trans h
    exact .btnq (.inl ⟨e, rfl⟩) _ s.sig.e _
  case outPop =>
    simp only [exec, execOutPop] at h
    split at h <;> cases h
    · exact .outq (.inr (.inr rfl)) s.outq s.sig.codes
    · exact .outq (.inr (.inr rfl)) _ s.sig.codes
  case decClear => cases h; exact .decClear
  case rst => cases h; exact .rst
  case serPop =>
    simp only [exec, execSerPop] at h
    split at h <;> cases h
    · exact .serq (.inr rfl) s.serq s.sig.b s.sig.codes
    · exact .serq (.inr rfl) _ _ s.sig.codes
  case btnPop =>
    simp only [exec, execBtnPop] at h
    split at h <;> cases h
    · exact .btnq (.inr rfl) s.btnq s.sig.e s.sig.codes
    · exact .btnq (.inr rfl) _ _ s.sig.codes
  case outPushMidi a b c =>
    obtain ⟨cs, -, hpush⟩ := pushOut_eq (midiWord a b c) s
    cases hpush.symm.trans h
    exact .outq (.inl ⟨a, b, c, rfl⟩) _ _
  case outPushBtn k =>
    obtain ⟨cs, -, hpush⟩ := pushOut_eq (buttonWord (buttonId s.cfg) k) s
    cases hpush.symm.trans h
    exact .outq (.inr (.inl ⟨k, rfl⟩)) _ _
  all_goals exact absurd ⟨_, rfl⟩ hrow

/-- A row encoded as a byte is a byte row. -/
theorem isByteRow_of_encode {i : Instr} {b : Byte} (h : encode Config.default i = .midiByte b) : isByteRow i = true := by
  simp [isByteRow, h]

/-- A byte row is what its byte decodes to. -/
theorem decodeByte_of_encode {cfg : Config} {i : Instr} {b : Byte} (h : encode cfg i = .midiByte b) : decodeByte b = i := by
  cases i
  all_goals cases h
  case data v => exact decodeByte_dataByteOf v
  case noteOff ch | noteOn ch | polyPressure ch | controlChange ch | programChange ch | channelPressure ch | pitchBend ch =>
    obtain ⟨_, _, _, _, _, _, _⟩ := decodeByte_statusByte ch
    assumption
  all_goals rfl

theorem decodeByte_data : ∀ b : Byte, isData b = true → decodeByte b = .data (b.extractLsb' 0 7) := by decide

/-- Classifying a status byte writes no byte of `BUF`. -/
@[simp] theorem classifyStatus_buf (b : Byte) (s : State) : (classifyStatus b s).buf = s.buf := by
  unfold classifyStatus
  split_ifs <;> rfl

/-- A feed leaves `BUF` as it was, unless it appends a data byte to a SysEx (R76). -/
theorem feed_buf {b : Byte} {s t : State} (h : feed b s = .next t) :
    t.buf = s.buf ∨ (s.ds = .awaitSysEx ∧ s.idx < s.cfg.sysexCap ∧ isData b = true) := by
  obtain ⟨-, rfl⟩ | ⟨-, -, rfl⟩ | ⟨-, -, rfl⟩ | ⟨-, -, rfl⟩ | ⟨-, -, rfl⟩ | ⟨hd, hs, hi, -⟩ | ⟨-, -, -, rfl⟩
    | ⟨-, -, -, rfl⟩ | ⟨-, -, bytes, -, rfl⟩ := feed_cases h
  case inr.inr.inr.inr.inr.inl => exact .inr ⟨hs, hi, hd⟩
  all_goals exact .inl (by simp)

/-- Settles O30: of the decoder's instructions only the append writes `BUF`, and no other unit owns it. -/
theorem onlySysExDataWritesBuf : Obligations.OnlySysExDataWritesBuf := by
  intro i s t h hnot a
  have hbuf : t.buf = s.buf := by
    cases exec_ownerWrote h with
    | @decoder _ b _ row fed =>
      obtain hsame | ⟨hs, hi, hd⟩ := feed_buf fed
      · exact hsame
      · exact absurd ⟨hs, hi, _, (decodeByte_of_encode row).symm.trans (decodeByte_data b hd)⟩ hnot
    | _ => rfl
  rw [hbuf]

/-- Settles O57: each owner's update names none of the other units' registers. -/
theorem registersWrittenByTheirOwnersOnly : Obligations.RegistersWrittenByTheirOwnersOnly := by
  intro i s t h
  cases exec_ownerWrote h with
  | decoder row fed =>
    have frame := feed_frame fed
    simp [isByteRow_of_encode row, frame.bs, frame.brem, frame.cmask, frame.cmode, frame.serq, frame.btnq, frame.outq]
  | decClear => simp
  | rst => simp
  | classifier row => obtain rfl | rfl | rfl := row <;> simp
  | cfgMask v mask => simp
  | cfgMode v mode => simp
  | cfgRsvd sel v => simp
  | serq row => obtain ⟨b, rfl⟩ | rfl := row <;> simp
  | btnq row => obtain ⟨e, rfl⟩ | rfl := row <;> simp
  | outq row => obtain ⟨a, b, c, rfl⟩ | ⟨k, rfl⟩ | rfl := row <;> simp

end Sys2Proof.Machine
end

section
/-! PROOFS. The statements of spec/20_memory.md: what stops a read of the accumulator (R41, R42), and the order of the queues
(R47, R127). -/

namespace Sys2Proof.Machine

/-! ## The accumulator (R41, R42) -/

/-- A prefix read stops exactly on an entry that does not exist or that nothing has written. -/
theorem memReadPrefix_error_iff (s : State) (n : Nat) : (∃ f, s.memReadPrefix n = .error f)
    ↔ ∃ k, k < n ∧ (s.cfg.sysexCap ≤ k ∨ Memory.read s.buf k = none) := by
  constructor
  · rintro ⟨f, hf⟩
    by_contra hnone
    push Not at hnone
    have hcap : n ≤ s.cfg.sysexCap := by
      by_contra hlt
      exact absurd (hnone s.cfg.sysexCap (by omega)).1 (lt_irrefl _)
    obtain ⟨bytes, hok, -⟩ := memReadPrefix_of_written s n hcap fun k hk => Option.isSome_iff_ne_none.2 (hnone k hk).2
    cases hf.symm.trans hok
  · rintro ⟨k, hk, hbad⟩
    cases hread : s.memReadPrefix n with
    | error f => exact ⟨f, rfl⟩
    | ok bytes =>
      obtain ⟨hexists, -, hwritten⟩ := (written_of_memReadPrefix s n bytes hread).2 k hk
      obtain hcap | hunwritten := hbad
      · omega
      · simp [hunwritten] at hwritten

/-- Settles O27: in `AwaitSysEx` the feed of 0xF7 stops where the read of the prefix below `IDX` does. -/
theorem sysExEndFaultsOnUnwritten : Obligations.SysExEndFaultsOnUnwritten := by
  intro s hs
  rw [← memReadPrefix_error_iff, exec_eq_feed s.cfg (b := 0xF7) rfl]
  cases hread : s.memReadPrefix s.idx with
  | ok bytes => simp only [feed_sysExEnd hs hread, reduceCtorEq, exists_false]
  | error f => simp only [feed_sysExEnd_fault hs hread, Host.Outcome.fault.injEq, Except.error.injEq]

/-! ## The queues (R47, R127) -/

/-- R116 accepts requests in their order. -/
theorem fifoAccept_sublist {α : Type} (d n : Nat) (ps : List α) : (fifoAccept d n ps).Sublist ps := by
  induction ps generalizing n with
  | nil => exact .slnil
  | cons p ps ih =>
    by_cases hroom : n < d
    · simpa [fifoAccept, hroom] using (ih (n + 1)).cons_cons p
    · simpa [fifoAccept, hroom] using (ih n).cons p

/-- What a cycle of a FIFO pops, followed by what it leaves, is what it held followed by what it accepted. -/
theorem popped_append_fifoCycle {α : Type} (d : Nat) (q : List α) (pop : Bool) (ps : List α) :
    (if pop then q.head? else none).toList ++ fifoCycle d q pop ps = q ++ fifoAccept d q.length ps := by
  cases pop with
  | false => rfl
  | true => cases q <;> rfl

/-- FIFO order over one cycle: the accepted items are a subsequence of the requests. -/
theorem fifoCycle_keeps_order {α : Type} (d : Nat) (q : List α) (pop : Bool) (ps : List α) :
    ∃ acc, acc.Sublist ps ∧ q ++ acc = (if pop then q.head? else none).toList ++ fifoCycle d q pop ps :=
  ⟨_, fifoAccept_sublist d q.length ps, (popped_append_fifoCycle d q pop ps).symm⟩

/-- Settles O46: each queue of a running cycle is a cycle of R116's FIFO. -/
theorem queuesKeepOrder : Obligations.QueuesKeepOrder := by
  intro s t hstep hr
  obtain ⟨hreset, -⟩ | ⟨-, d, cs, -, -, -, rfl⟩ := step_cases hstep
  · simp [hr] at hreset
  have hout := fifoCycle_keeps_order s.cfg.outDepth s.outq (nextInputs s).outPop
  simp only [apply_ite Option.toList, Option.toList_none] at hout
  exact ⟨fifoCycle_keeps_order _ _ _ _, fifoCycle_keeps_order _ _ _ _, hout _⟩

end Sys2Proof.Machine
end

section
/-! PROOFS. The statements of spec/30_encoding.md about codes: the fields of the OUT words (R58), the rows of the byte map
(R55), and that decoding and encoding are inverse to each other (R54 to R58). -/

namespace Sys2Proof

open Sys2Proof.Machine

/-! ## OUT words (R58) -/

theorem midiWord_fields (status d0 d1 : Byte) :
    (midiWord status d0 d1).getLsbD 24 = false ∧ (midiWord status d0 d1).extractLsb' 16 8 = status
    ∧ (midiWord status d0 d1).extractLsb' 8 8 = d0 ∧ (midiWord status d0 d1).extractLsb' 0 8 = d1 := by
  refine ⟨by rw [midiWord_bit]; simp, ?_, ?_, ?_⟩ <;> refine BitVec.eq_of_getLsbD_eq fun i hi => ?_ <;>
    rw [BitVec.getLsbD_extractLsb', midiWord_bit]
  · simp [hi, show ¬ 16 + i < 8 by omega]
  · simp [hi, show 8 + i < 16 by omega]
  · simp [hi]

theorem buttonWord_fields (id : Byte) (kind : PressKind) :
    (buttonWord id kind).getLsbD 24 = true ∧ (buttonWord id kind).extractLsb' 16 8 = id
    ∧ (buttonWord id kind).extractLsb' 2 14 = 0 ∧ (buttonWord id kind).extractLsb' 0 2 = pressCode kind := by
  refine ⟨by rw [buttonWord_bit]; simp, ?_, ?_, ?_⟩ <;> refine BitVec.eq_of_getLsbD_eq fun i hi => ?_ <;>
    rw [BitVec.getLsbD_extractLsb', buttonWord_bit]
  · simp [hi, show ¬ 16 + i < 2 by omega, show 16 + i < 24 by omega]
  · simp [show 2 + i < 16 by omega]
  · simp [hi]

/-- Bits 15..8 and 7..2 of a ButtonEvent's word are parts of its 14 reserved bits. -/
theorem buttonWord_reserved_fields (id : Byte) (kind : PressKind) :
    (buttonWord id kind).extractLsb' 8 8 = 0x00#8 ∧ (buttonWord id kind).extractLsb' 2 6 = 0#6 := by
  refine ⟨?_, ?_⟩ <;> refine BitVec.eq_of_getLsbD_eq fun i hi => ?_ <;> rw [BitVec.getLsbD_extractLsb', buttonWord_bit]
  · simp [show ¬ 8 + i < 2 by omega, show 8 + i < 16 by omega]
  · simp [show 2 + i < 16 by omega]

/-- A word with tag 0 is the MidiCommand of its three byte fields. -/
theorem midiWord_of_tag {w : OutWord} (htag : w.getLsbD 24 = false) :
    midiWord (w.extractLsb' 16 8) (w.extractLsb' 8 8) (w.extractLsb' 0 8) = w := by
  refine BitVec.eq_of_getLsbD_eq fun i hi => ?_
  simp only [midiWord_bit, BitVec.getLsbD_extractLsb']
  split_ifs with h8 h16
  · simp [h8]
  · simp [show i - 8 < 8 by omega, show 8 + (i - 8) = i by omega]
  · obtain rfl | hlt : i = 24 ∨ i - 16 < 8 := by omega
    · simpa using htag
    · simp [hlt, show 16 + (i - 16) = i by omega]

/-- A word with tag 1 and its reserved bits clear is the ButtonEvent of its id and the kind of its code. -/
theorem buttonWord_of_tag {w : OutWord} {kind : PressKind} (htag : w.getLsbD 24 = true) (hreserved : w.extractLsb' 2 14 = 0)
    (hkind : w.extractLsb' 0 2 = pressCode kind) : buttonWord (w.extractLsb' 16 8) kind = w := by
  refine BitVec.eq_of_getLsbD_eq fun i hi => ?_
  simp only [buttonWord_bit, ← hkind, BitVec.getLsbD_extractLsb']
  split_ifs with h2 h16 h24
  · simp [h2]
  · have hbit : (w.extractLsb' 2 14).getLsbD (i - 2) = false := by rw [hreserved]; simp
    rw [BitVec.getLsbD_extractLsb', show 2 + (i - 2) = i by omega] at hbit
    simpa [show i - 2 < 14 by omega] using hbit.symm
  · simp [show i - 16 < 8 by omega, show 16 + (i - 16) = i by omega]
  · obtain rfl : i = 24 := by omega
    simp [htag]

theorem pressCode_ne_three (kind : PressKind) : pressCode kind ≠ 3#2 := by cases kind <;> decide

/-- Settles O6: the fields by the words' bits, and the two example words by evaluation. -/
theorem outWordFields : Obligations.OutWordFields := by
  refine ⟨midiWord_fields, fun id kind => ?_, pressCode_ne_three, rfl, rfl, rfl, rfl, rfl⟩
  obtain ⟨htag, hid, -, hkind⟩ := buttonWord_fields id kind
  obtain ⟨hbyte, hzeros⟩ := buttonWord_reserved_fields id kind
  exact ⟨htag, hid, hbyte, hzeros, hkind⟩

theorem decodeOutWord_midiWord (cfg : Config) {status d0 d1 : Byte} (h : (Instr.outPushMidi status d0 d1).wf = true) :
    decodeOutWord cfg (midiWord status d0 d1) = .ok (.outPushMidi status d0 d1) := by
  obtain ⟨htag, hstatus, h0, h1⟩ := midiWord_fields status d0 d1
  obtain ⟨⟨hpassed, hd0⟩, hd1⟩ := by simpa only [Instr.wf, Bool.and_eq_true] using h
  simp only [decodeOutWord, htag, hstatus, h0, h1, hpassed, hd0, hd1]
  rfl

theorem decodeOutWord_buttonWord (cfg : Config) (kind : PressKind) :
    decodeOutWord cfg (buttonWord (buttonId cfg) kind) = .ok (.outPushBtn kind) := by
  obtain ⟨htag, hid, hreserved, hkind⟩ := buttonWord_fields (buttonId cfg) kind
  simp only [decodeOutWord, htag, hid, hreserved, hkind]
  cases kind <;> simp [pressCode]

/-- An OUT word that decodes is the encoding of what it decodes to, which is well-formed. -/
theorem encode_of_decodeOutWord {cfg : Config} {w : OutWord} {i : Instr} (h : decodeOutWord cfg w = .ok i) :
    i.wf = true ∧ encode cfg i = .outWord w := by
  simp only [decodeOutWord] at h
  split_ifs at h with htag hid hreserved hstatus hdata
  · have hid : w.extractLsb' 16 8 = buttonId cfg := by simpa using hid
    have hreserved : w.extractLsb' 2 14 = 0 := by simpa using hreserved
    have hword : ∀ kind, w.extractLsb' 0 2 = pressCode kind → encode cfg (.outPushBtn kind) = .outWord w :=
      fun kind hkind => congrArg Code.outWord (hid ▸ buttonWord_of_tag htag hreserved hkind)
    split at h <;> cases h
    all_goals exact ⟨rfl, hword _ (BitVec.eq_of_toNat_eq ‹_›)⟩
  · cases h
    refine ⟨?_, congrArg Code.outWord (midiWord_of_tag (by simpa using htag))⟩
    simp_all [Instr.wf]

/-! ## Ports (R53, R57) -/

theorem mem_askIf {c : Bool} {i j : Instr} : i ∈ askIf c j ↔ c = true ∧ i = j := by cases c <;> simp [askIf]

theorem cfgInstr_wf (sel : BitVec 2) (value : BitVec 32) : (cfgInstr sel value).wf = true := by
  have hcover : ∀ s : BitVec 2, s = 0 ∨ s = 1 ∨ s = 2 ∨ s = 3 := by decide
  obtain rfl | rfl | rfl | rfl := hcover sel <;> rfl

/-- Whatever the ports ask for is well-formed. -/
theorem requests_wf {p : PortsIn} {i : Instr} (h : i ∈ p.requests) : i.wf = true := by
  unfold PortsIn.requests at h
  split_ifs at h
  · obtain rfl := List.mem_singleton.1 h
    rfl
  · simp only [List.mem_flatten, List.mem_cons, List.not_mem_nil, or_false, exists_eq_or_imp, exists_eq_left,
      mem_askIf] at h
    obtain ⟨-, rfl⟩ | ⟨-, rfl⟩ | ⟨-, rfl⟩ | ⟨-, rfl⟩ | ⟨-, rfl⟩ | ⟨-, rfl⟩ | ⟨-, rfl⟩ | ⟨-, rfl⟩ := h
    case inr.inr.inr.inr.inr.inr.inr => exact cfgInstr_wf _ _
    all_goals rfl

/-- Ports stand for an instruction exactly if it is the one request they make. -/
theorem decode_ports_eq_ok (cfg : Config) (p : PortsIn) (i : Instr) : decode cfg (.ports p) = .ok i ↔ p.requests = [i] := by
  simp only [decode]
  split <;> simp_all

theorem cfgInstr_of_wf {sel : BitVec 2} {value : BitVec 32} (h : (Instr.cfgRsvd sel value).wf = true) :
    cfgInstr sel value = .cfgRsvd sel value := by
  obtain rfl | rfl : sel = 2 ∨ sel = 3 := by simpa [Instr.wf] using h
  all_goals rfl

@[simp] theorem edgeOfBit_bitOfEdge (e : Edge) : edgeOfBit (bitOfEdge e) = e := by cases e <;> rfl

/-- The ports that encode an instruction make its request and no other. -/
theorem requests_of_encode {cfg : Config} {i : Instr} {p : PortsIn} (hwf : i.wf = true) (h : encode cfg i = .ports p) :
    p.requests = [i] := by
  cases i
  all_goals cases h
  case cfgRsvd sel v => exact congrArg (fun i => [i]) (cfgInstr_of_wf hwf)
  case btnPush e => exact congrArg (fun e => [Instr.btnPush e]) (edgeOfBit_bitOfEdge e)
  all_goals rfl

/-! ## Decoding and encoding -/

theorem edgeInstr_of_encode {cfg : Config} {i : Instr} {e : BitVec 1} (h : encode cfg i = .btnEdge e) :
    edgeInstr (edgeOfBit e) = i := by
  cases i
  all_goals cases h
  all_goals rfl

theorem encode_edgeInstr (cfg : Config) (e : BitVec 1) : encode cfg (edgeInstr (edgeOfBit e)) = .btnEdge e := by
  obtain rfl | rfl := (by decide : ∀ e : BitVec 1, e = 0 ∨ e = 1) e <;> rfl

theorem decodeOutWord_of_encode {cfg : Config} {i : Instr} {w : OutWord} (hwf : i.wf = true)
    (h : encode cfg i = .outWord w) : decodeOutWord cfg w = .ok i := by
  cases i
  all_goals cases h
  case outPushMidi status d0 d1 => exact decodeOutWord_midiWord cfg hwf
  case outPushBtn kind => exact decodeOutWord_buttonWord cfg kind

/-- Settles O4: one lemma per form of code. -/
theorem decodeOfEncode : Obligations.DecodeOfEncode := by
  intro cfg i hwf
  cases hcode : encode cfg i with
  | midiByte b => exact congrArg Except.ok (decodeByte_of_encode hcode)
  | btnEdge e => exact congrArg Except.ok (edgeInstr_of_encode hcode)
  | ports p => exact (decode_ports_eq_ok cfg p i).2 (requests_of_encode hwf hcode)
  | outWord w => exact decodeOutWord_of_encode hwf hcode

theorem decodeByte_wf : ∀ b : Byte, (decodeByte b).wf = true := by decide

theorem edgeInstr_wf (e : Edge) : (edgeInstr e).wf = true := by cases e <;> rfl

/-- Settles O5: one lemma per form of code; of the ports, which are many to one, only what they ask for. -/
theorem encodeOfDecode : Obligations.EncodeOfDecode := by
  intro cfg c i h
  cases c with
  | midiByte b =>
    cases h
    exact ⟨decodeByte_wf b, fun _ => encode_decodeByte cfg b⟩
  | btnEdge e =>
    cases h
    exact ⟨edgeInstr_wf _, fun _ => encode_edgeInstr cfg e⟩
  | ports p =>
    have hone := (decode_ports_eq_ok cfg p i).1 h
    exact ⟨requests_wf (hone ▸ List.mem_singleton_self i), fun hnot => absurd rfl (hnot p)⟩
  | outWord w =>
    obtain ⟨hwf, hencode⟩ := encode_of_decodeOutWord h
    exact ⟨hwf, fun _ => hencode⟩

/-- Settles O1: bytes, edges and ports by evaluation; the two OUT words by the fields they are written from. -/
theorem writtenWordsDecode : Obligations.WrittenWordsDecode := by
  intro cfg hcfg
  have hid : buttonId cfg = 3 := by rw [buttonId, hcfg]; rfl
  have hmidi : (0b0100100000100000001111111 : OutWord) = midiWord 0x90 0x40 0x7F := rfl
  have hbutton : (0b1000000110000000000000010 : OutWord) = buttonWord (buttonId cfg) .veryLong := by rw [hid]; rfl
  have hwf : (Instr.outPushMidi 0x90 0x40 0x7F).wf = true := by decide
  refine ⟨rfl, rfl, rfl, rfl, rfl, rfl, rfl, rfl, rfl, rfl, ?_, ?_⟩
  · rw [hmidi]
    exact decodeOutWord_midiWord cfg hwf
  · rw [hbutton]
    exact decodeOutWord_buttonWord cfg .veryLong

/-! ## The rows of the byte map (R55, R12) -/

theorem byteRows_match_once : ∀ b : Byte,
    (byteRows.filter fun r => b &&& r.mask = r.pattern).map ByteRow.mnemonic = [(decodeByte b).mnemonic] := by decide

theorem dataRow_iff : ∀ b : Byte, (decodeByte b).mnemonic = "DATA" ↔ isData b = true := by decide

theorem twoRows_iff : ∀ b : Byte, (decodeByte b).mnemonic ∈
    ["NOTE_OFF", "NOTE_ON", "POLY_PRESSURE", "CONTROL_CHANGE", "PITCH_BEND", "SONG_POSITION"] ↔ isTwo b = true := by decide

theorem oneRows_iff : ∀ b : Byte, (decodeByte b).mnemonic ∈
    ["PROGRAM_CHANGE", "CHANNEL_PRESSURE", "TIME_CODE", "SONG_SELECT"] ↔ isOne b = true := by decide

theorem sysExStartRow_iff : ∀ b : Byte, (decodeByte b).mnemonic = "SYSEX_START" ↔ isSysExStart b = true := by decide

theorem unrecRows_iff : ∀ b : Byte, (decodeByte b).mnemonic ∈
    ["UNREC_F4", "UNREC_F5", "UNREC_F6", "SYSEX_END", "UNREC_F9", "UNREC_FD", "UNREC_FE"] ↔ isUnrec b = true := by decide

theorem realTimeRows_iff : ∀ b : Byte, (decodeByte b).mnemonic ∈
    ["RT_F8", "RT_FA", "RT_FB", "RT_FC", "RT_FF"] ↔ isRealTime b = true := by decide

/-- Settles O3: the match of the rows, and one class of rows per set of R12, over the 256 bytes. -/
theorem everyByteHasOneRow : Obligations.EveryByteHasOneRow := fun b =>
  ⟨byteRows_match_once b, dataRow_iff b, twoRows_iff b, oneRows_iff b, sysExStartRow_iff b, unrecRows_iff b,
    realTimeRows_iff b⟩

end Sys2Proof
end

section
/-! PROOFS. The statements of spec/30_encoding.md about the ports of a cycle: the overflow pulse (R59), the taps (R60, R61), and
the readback and output ports (R63, R125). -/

namespace Sys2Proof.Machine

/-! ## The ports a step presents -/

/-- The output ports after a step are those of the start of the cycle and of its wires. -/
theorem step_presents_ports {s t : State} (h : step s = .next t) : t.out = portsOut (nextInputs s).rst s t.sig := by
  obtain ⟨hr, hreset⟩ | ⟨hr, d, cs, -, -, -, rfl⟩ := step_cases h
  · rw [cycleR142, if_pos hr] at hreset
    cases hreset
    rw [hr]
    rfl
  · rw [hr]
    rfl

/-- The wires after a reset cycle are quiet (R170). -/
theorem cycleR142_reset_quiet {p : PortsIn} {s t : State} (hr : p.rst = true) (h : cycleR142 p s = .next t) :
    t.sig = Signals.quiet := by
  rw [cycleR142, if_pos hr] at h
  cases h
  rfl

/-! ## Where an event comes from (R60, R67) -/

/-- What the event of a cycle that began in `s` reports of `s`: a message carries `RS`, a SysEx the bytes of `BUF` below
`IDX`. -/
inductive EventReports (s : State) : Option DecodedEvent → Prop
  | none : EventReports s none
  | realTime (b : Byte) : EventReports s (some (.realTime b))
  | oneData (data : Byte) : EventReports s (some (.oneData s.rs data))
  | twoData (d0 d1 : Byte) : EventReports s (some (.twoData s.rs d0 d1))
  | sysEx {bytes : List Byte} (read : s.memReadPrefix s.idx = .ok bytes) : EventReports s (some (.sysEx bytes s.idx))

theorem feed_event {b : Byte} {s t : State} (h : feed b s = .next t) : EventReports s t.sig.ev := by
  obtain ⟨-, rfl⟩ | ⟨-, -, rfl⟩ | ⟨-, -, rfl⟩ | ⟨-, -, rfl⟩ | ⟨-, -, rfl⟩ | ⟨-, -, -, rfl⟩ | ⟨-, -, -, rfl⟩
    | ⟨-, -, -, rfl⟩ | ⟨-, -, bytes, hread, rfl⟩ := feed_cases h
  case inl => exact .realTime b
  case inr.inr.inr.inl => exact .twoData s.d0 b
  case inr.inr.inr.inr.inl => exact .oneData b
  case inr.inr.inr.inr.inr.inr.inr.inl => rw [classifyStatus_sig_ev]; exact .none
  case inr.inr.inr.inr.inr.inr.inr.inr => rw [classifyStatus_sig_ev]; exact .sysEx hread
  all_goals exact .none

/-- The beginning of a cycle changes nothing that an event reports. -/
theorem EventReports.of_beginCycle {s : State} {ev : Option DecodedEvent} (h : EventReports (beginCycle s) ev) :
    EventReports s ev := by
  cases h with
  | none => exact .none
  | realTime b => exact .realTime b
  | oneData d => exact .oneData d
  | twoData d0 d1 => exact .twoData d0 d1
  | sysEx read => exact .sysEx ((memReadPrefix_congr (s := beginCycle s) (t := s) rfl rfl _).symm.trans read)

/-- The event of a step reports of the state it began in. -/
theorem step_event {s t : State} (h : step s = .next t) : EventReports s t.sig.ev := by
  obtain ⟨hr, hreset⟩ | ⟨-, d, cs, -, hd, -, rfl⟩ := step_cases h
  · rw [cycleR142_reset_quiet hr hreset]
    exact .none
  · change EventReports s d.sig.ev
    obtain rfl | ⟨b, hf⟩ | rfl := decoderR142_cases hd
    · exact .none
    · exact (feed_event hf).of_beginCycle
    · exact .none

/-! ## The taps (R60, R61) -/

@[simp] theorem sxBufPort_length (cap n : Nat) (ev : Option DecodedEvent) : (sxBufPort cap n ev).length = cap := by
  simp [sxBufPort]

/-- Below `SYSEX_CAP` and the event's length, `sx_buf` shows the event's bytes. -/
theorem sxBufPort_getElem? {cap n k : Nat} {ev : Option DecodedEvent} (hk : k < (evtBytes ev).length) (hcap : k < cap) :
    (sxBufPort cap n ev)[k]? = (evtBytes ev)[k]? := by
  simp [sxBufPort, hk, hcap]

/-- In the cycle of a SysEx event, `sx_buf` shows `BUF` below the event's length. -/
theorem sxBufPort_sysEx {s : State} {len : Nat} {bytes : List Byte} (hread : s.memReadPrefix len = .ok bytes) (n : Nat)
    {k : Nat} (hk : k < len) : (sxBufPort s.cfg.sysexCap n (some (.sysEx bytes len)))[k]? = Memory.read s.buf k := by
  obtain ⟨hlen, hbytes⟩ := written_of_memReadPrefix s len bytes hread
  obtain ⟨hcap, hbyte, -⟩ := hbytes k hk
  exact (sxBufPort_getElem? (ev := some (.sysEx bytes len)) (hlen ▸ hk) hcap).trans hbyte.symm

/-- Settles O54: the ports are those of the cycle's wires, whose event reports of the state at the start. -/
theorem outputPortsOfCycle : Obligations.OutputPortsOfCycle := by
  intro s t h
  have hreports := step_event h
  rw [step_presents_ports h]
  generalize t.sig = wires at hreports ⊢
  obtain ⟨b, e, ev, ovf, bev, codes⟩ := wires
  refine ⟨fun hr => ⟨?_, fun w hw => ?_⟩, rfl, rfl, rfl, ?_, sxBufPort_length _ _ _, ?_⟩
  · simp [portsOut, hr, outValid, emptyQ]
  · simp [portsOut, hr, List.headD_eq_head?_getD, hw]
  · cases bev <;> exact ⟨rfl, rfl⟩
  · change EventReports s ev at hreports
    cases hreports with
    | none => exact ⟨rfl, rfl, rfl, rfl, rfl⟩
    | realTime b => exact ⟨rfl, rfl, rfl, rfl, rfl, rfl⟩
    | oneData d => exact ⟨rfl, rfl, rfl, rfl, rfl, rfl, rfl⟩
    | twoData d0 d1 => exact ⟨rfl, rfl, rfl, rfl, rfl, rfl, rfl⟩
    | sysEx read => exact ⟨rfl, rfl, rfl, rfl, rfl, rfl, rfl, fun k hk => sxBufPort_sysEx read _ hk⟩

/-! ## The overflow pulse (R59) -/

@[simp] theorem classifyStatus_sig_ovf (b : Byte) (s : State) : (classifyStatus b s).sig.ovf = s.sig.ovf := by
  unfold classifyStatus
  split_ifs <;> rfl

/-- A feed gives the overflow signal exactly on R76's path. -/
theorem feed_ovf {b : Byte} {s t : State} (h : feed b s = .next t) :
    t.sig.ovf = true ↔ isData b = true ∧ s.ds = .awaitSysEx ∧ s.cfg.sysexCap ≤ s.idx := by
  obtain ⟨hr, rfl⟩ | ⟨-, hs, rfl⟩ | ⟨-, hs, rfl⟩ | ⟨-, hs, rfl⟩ | ⟨-, hs, rfl⟩ | ⟨-, -, hi, rfl⟩ | ⟨hd, hs, hi, rfl⟩
    | ⟨hd, -, -, rfl⟩ | ⟨rfl, -, bytes, -, rfl⟩ := feed_cases h
  · simp [beginFeed, isData_of_realTime b hr]
  · simp [beginFeed, hs]
  · simp [beginFeed, hs]
  · simp [beginFeed, hs]
  · simp [beginFeed, hs]
  · simp [beginFeed, hi]
  · simp [hd, hs, Nat.not_lt.1 hi]
  · simp [beginFeed, hd]
  · simp [beginFeed, isData]

/-- The decoder's part of a running cycle gives the overflow signal exactly if the byte it takes does. -/
theorem decoderR142_ovf {p : PortsIn} {s d : State} (h : decoderR142 p s = .next d) : d.sig.ovf = true ↔
    ∃ b, (if serPopR142 p s then s.serq.head? else none) = some b
      ∧ isData b = true ∧ s.ds = .awaitSysEx ∧ s.cfg.sysexCap ≤ s.idx := by
  unfold decoderR142 at h
  split at h
  next hclear =>
    cases h
    simp [serPopR142, hclear]
  next =>
    split at h
    next b htaken => simpa [htaken] using feed_ovf h
    next htaken =>
      cases h
      simp [htaken]

/-- Settles O55: the port shows the decoder's signal, and `sig.b` is the byte that the decoder takes. -/
theorem overflowPulseExactly : Obligations.OverflowPulseExactly := by
  intro s t h
  have hport : t.out.sysexOvf = t.sig.ovf := congrArg Outputs.sysexOvf (step_presents_ports h)
  rw [hport]
  obtain ⟨hr, hreset⟩ | ⟨-, d, cs, -, hd, -, rfl⟩ := step_cases h
  · simp [cycleR142_reset_quiet hr hreset]
  · have hovf := decoderR142_ovf hd
    exact hovf

end Sys2Proof.Machine
end

section
/-! PROOFS. Of the statements of spec/40_decoder.md: what each byte does in every state (R69 to R103). -/

namespace Sys2Proof.Machine

/-! ## The wires of a feed (R67) -/

/-- A feed begins with no event, no overflow and no code of its own. -/
theorem beginFeed_eq_fed (s : State) : beginFeed s = s.fed none false [] := by simp [beginFeed, State.fed]

@[simp] theorem fed_emitEvent (s : State) (ev : Option DecodedEvent) (ovf : Bool) (cs : List ErrorCode) (e : DecodedEvent) :
    (s.fed ev ovf cs).emitEvent e = s.fed (some e) ovf cs := rfl

@[simp] theorem fed_emitOverflow (s : State) (ev : Option DecodedEvent) (ovf : Bool) (cs : List ErrorCode) :
    (s.fed ev ovf cs).emitOverflow = s.fed ev true cs := rfl

@[simp] theorem fed_raise (s : State) (ev : Option DecodedEvent) (ovf : Bool) (cs : List ErrorCode) (c : ErrorCode) :
    (s.fed ev ovf cs).raise c = s.fed ev ovf (cs ++ [c]) := by simp [State.fed, State.raise]

/-! ## Real-time bytes (R69) -/

/-- The row of a real-time byte reports it and writes no register. -/
theorem exec_realTime {i : Instr} {b : Byte} {s : State} (row : encode s.cfg i = .midiByte b) (h : isRealTime b = true) :
    exec i s = .next (s.fed (some (.realTime b)) false []) := by
  rw [exec_eq_feed s.cfg row, feed_realTime h, beginFeed_eq_fed, fed_emitEvent]

/-- Settles O21: the five bytes are real-time. -/
theorem realTimeBytesReportAndWriteNothing : Obligations.RealTimeBytesReportAndWriteNothing := fun _ =>
  ⟨exec_realTime rfl rfl, exec_realTime rfl rfl, exec_realTime rfl rfl, exec_realTime rfl rfl, exec_realTime rfl rfl⟩

/-! ## Status bytes (R79) -/

/-- A status byte that ends no SysEx is classified, whatever the state was; no event of its own (R71, R72, R78). -/
theorem exec_status {i : Instr} {b : Byte} {s : State} (row : encode s.cfg i = .midiByte b) (hd : isData b = false)
    (hr : isRealTime b = false) (hs : s.ds ≠ .awaitSysEx ∨ b ≠ 0xF7) :
    exec i s = .next (classifyStatus b (s.fed none false [.reprocess])) := by
  rw [exec_eq_feed s.cfg row, feed_status hd hr hs, beginFeed_eq_fed, fed_raise, List.nil_append]

theorem exec_twoDataStatus {i : Instr} {b : Byte} {s : State} (row : encode s.cfg i = .midiByte b) (h : isTwo b = true) :
    exec i s = .next { s.fed none false [.reprocess] with rs := b, ds := .awaitFirstData } := by
  obtain ⟨hd, hr, -, -, hend⟩ := two_is_status b h
  rw [exec_status row hd hr (.inr hend), classifyStatus_two h]

theorem exec_oneDataStatus {i : Instr} {b : Byte} {s : State} (row : encode s.cfg i = .midiByte b) (h : isOne b = true) :
    exec i s = .next { s.fed none false [.reprocess] with rs := b, ds := .awaitSingleData } := by
  obtain ⟨hd, hr, -, -, hend⟩ := one_is_status b h
  rw [exec_status row hd hr (.inr hend), classifyStatus_one h]

theorem exec_unrecognizedStatus {i : Instr} {b : Byte} {s : State} (row : encode s.cfg i = .midiByte b)
    (h : isUnrec b = true) (hs : s.ds ≠ .awaitSysEx ∨ b ≠ 0xF7) :
    exec i s = .next { s.fed none false [.reprocess, .unrecognizedStatus b] with ds := .awaitStatus } := by
  obtain ⟨hd, hr, -⟩ := unrec_is_status b h
  rw [exec_status row hd hr hs, classifyStatus_unrec h, fed_raise]
  rfl

/-- Settles O22: each of the six rows is encoded as a byte of `TWO`. -/
theorem twoDataStatusPreempts : Obligations.TwoDataStatusPreempts := by
  intro s ch
  obtain ⟨hoff, hon, hpoly, hcc, hbend⟩ := isTwo_statusByte ch
  simp only [List.forall_mem_cons]
  exact ⟨⟨exec_twoDataStatus rfl hoff, exec_twoDataStatus rfl hon, exec_twoDataStatus rfl hpoly, exec_twoDataStatus rfl hcc,
    exec_twoDataStatus rfl hbend, List.forall_mem_nil _⟩, exec_twoDataStatus rfl rfl⟩

/-- Settles O23: each of the four rows is encoded as a byte of `ONE`. -/
theorem oneDataStatusPreempts : Obligations.OneDataStatusPreempts := by
  intro s ch
  obtain ⟨hprogram, hpressure⟩ := isOne_statusByte ch
  simp only [List.forall_mem_cons]
  exact ⟨⟨exec_oneDataStatus rfl hprogram, exec_oneDataStatus rfl hpressure, List.forall_mem_nil _⟩,
    exec_oneDataStatus rfl rfl, exec_oneDataStatus rfl rfl⟩

/-- Settles O24: 0xF0 ends no SysEx, and its classification starts one. -/
theorem sysExStartRestarts : Obligations.SysExStartRestarts := by
  intro s
  rw [exec_status (b := 0xF0) rfl rfl rfl (.inr (by decide)), classifyStatus_start]

/-- Settles O25: each of the six rows is encoded as a byte of `UNREC` other than 0xF7. -/
theorem unrecognizedStatusResynchronizes : Obligations.UnrecognizedStatusResynchronizes := by
  intro s x hx
  have hbyte : encode s.cfg x.1 = .midiByte x.2 ∧ isUnrec x.2 = true ∧ x.2 ≠ 0xF7 := by
    simp only [List.mem_cons, List.not_mem_nil, or_false] at hx
    obtain rfl | rfl | rfl | rfl | rfl | rfl := hx <;> exact ⟨rfl, rfl, by decide⟩
  obtain ⟨row, hunrec, hend⟩ := hbyte
  exact exec_unrecognizedStatus row hunrec (.inr hend)

/-- 0xF7 in `AwaitSysEx` over readable bytes emits them and is then dropped like any unrecognised status (R77). -/
theorem exec_sysexEnd {s : State} (hs : s.ds = .awaitSysEx) {bytes : List Byte} (hread : s.memReadPrefix s.idx = .ok bytes) :
    exec .sysexEnd s = .next { s.fed (some (.sysEx bytes s.idx)) false [.reprocess, .unrecognizedStatus 0xF7]
      with ds := .awaitStatus } := by
  rw [exec_eq_feed s.cfg (b := 0xF7) rfl, feed_sysExEnd hs hread, classifyStatus_unrec rfl, beginFeed_eq_fed, fed_emitEvent,
    fed_raise, fed_raise]
  rfl

/-- Settles O26: in `AwaitSysEx` the written bytes below `IDX` read in order, and elsewhere 0xF7 ends no SysEx. -/
theorem sysExEndEmitsAccumulatedBytes : Obligations.SysExEndEmitsAccumulatedBytes := by
  refine fun s => ⟨fun hs hcap hwritten => ?_, fun hs => exec_unrecognizedStatus rfl rfl (.inl hs)⟩
  obtain ⟨bytes, hread, hlen, hbytes⟩ := memReadPrefix_of_written s s.idx hcap hwritten
  exact ⟨bytes, hlen, hbytes, exec_sysexEnd hs hread⟩

/-! ## Data bytes (R72 to R76) -/

/-- The row `DATA` feeds the byte whose bit 7 is clear. -/
theorem exec_data (v : BitVec 7) (s : State) : exec (.data v) s = feed (0#1 ++ v) s := rfl

theorem isData_zero_append (v : BitVec 7) : isData (0#1 ++ v) = true := isData_dataByteOf v

/-- Below capacity a data byte of a SysEx is appended (R76). -/
theorem exec_data_append {s : State} (v : BitVec 7) (hs : s.ds = .awaitSysEx) (hi : s.idx < s.cfg.sysexCap) :
    exec (.data v) s
      = .next { s.fed none false [] with buf := Memory.write s.buf s.idx (0#1 ++ v), idx := s.idx + 1 } := by
  rw [exec_data, feed_data_append (isData_zero_append v) hs hi, beginFeed_eq_fed]

/-- At capacity a data byte of a SysEx overflows (R76). -/
theorem exec_data_overflow {s : State} (v : BitVec 7) (hs : s.ds = .awaitSysEx) (hi : ¬ s.idx < s.cfg.sysexCap) :
    exec (.data v) s = .next { s.fed none true [.sysExOverflow] with idx := 0, ds := .awaitStatus } := by
  rw [exec_data, feed_data_overflow (isData_zero_append v) hs hi, beginFeed_eq_fed, fed_emitOverflow, fed_raise,
    List.nil_append]

/-- Settles O28: one equation of the feed per latched state. -/
theorem dataByteInEveryState : Obligations.DataByteInEveryState := by
  intro s v
  have hd : isData (0#1 ++ v) = true := isData_zero_append v
  refine ⟨fun hs => ?_, fun hs => ?_, fun hs => ?_, fun hs => ?_, exec_data_append v, exec_data_overflow v⟩
  · rw [exec_data, feed_data_awaitStatus hd hs, beginFeed_eq_fed]
  · rw [exec_data, feed_data_awaitFirstData hd hs, beginFeed_eq_fed]
  · rw [exec_data, feed_data_awaitSecondData hd hs, beginFeed_eq_fed, fed_emitEvent]
  · rw [exec_data, feed_data_awaitSingleData hd hs, beginFeed_eq_fed, fed_emitEvent]

/-- Settles O29: what the append wrote reads back, and every other byte of `BUF` reads as before. -/
theorem sysExDataAppendsOrOverflows : Obligations.SysExDataAppendsOrOverflows := fun s v hs =>
  ⟨fun hi => ⟨_, exec_data_append v hs hi, rfl, Memory.read_write_same s.buf s.idx _,
    fun _ ha => Memory.read_write_other s.buf _ ha⟩, exec_data_overflow v hs⟩

end Sys2Proof.Machine
end

section
/-! PROOFS. Of the statements of spec/40_decoder.md: the bounded loop (R70) and the properties of the decoder (R104). -/

namespace Sys2Proof.Machine

/-! ## Which feeds emit an event (R67) -/

/-- The event that the feed of `b` in `s` emits, with the byte and the state that it takes: one case per emission of R68. -/
inductive FeedEmits (s : State) (b : Byte) : DecodedEvent → Prop
  | realTime (realTime : isRealTime b = true) : FeedEmits s b (.realTime b)
  | oneData (data : isData b = true) (ds : s.ds = .awaitSingleData) : FeedEmits s b (.oneData s.rs b)
  | twoData (data : isData b = true) (ds : s.ds = .awaitSecondData) : FeedEmits s b (.twoData s.rs s.d0 b)
  | sysEx {bytes : List Byte} (terminator : b = 0xF7) (ds : s.ds = .awaitSysEx) (read : s.memReadPrefix s.idx = .ok bytes) :
      FeedEmits s b (.sysEx bytes s.idx)

theorem feed_emits {b : Byte} {s t : State} {e : DecodedEvent} (h : feed b s = .next t) (hev : t.sig.ev = some e) :
    FeedEmits s b e := by
  obtain ⟨hr, rfl⟩ | ⟨-, -, rfl⟩ | ⟨-, -, rfl⟩ | ⟨hd, hs, rfl⟩ | ⟨hd, hs, rfl⟩ | ⟨-, -, -, rfl⟩ | ⟨-, -, -, rfl⟩
    | ⟨-, -, -, rfl⟩ | ⟨hb, hs, bytes, hread, rfl⟩ := feed_cases h
  case inl => cases hev; exact .realTime hr
  case inr.inr.inr.inl => cases hev; exact .twoData hd hs
  case inr.inr.inr.inr.inl => cases hev; exact .oneData hd hs
  case inr.inr.inr.inr.inr.inr.inr.inr => cases hev; exact .sysEx hb hs hread
  all_goals simp at hev

/-! ## The bounded loop (R70) -/

/-- A status byte that a SysEx in progress meets is dispatched again in `DispatchStatus`, if at all (R77, R78). -/
theorem sysExStatus_again {b : Byte} {s t : State} {ph : Phase} (h : sysExStatus b s = .again ph t) :
    ph = .dispatchStatus := by
  unfold sysExStatus at h
  split_ifs at h
  · split at h <;> cases h
    rfl
  · cases h; rfl

/-- A data byte of a SysEx is never dispatched again (R76). -/
theorem sysExData_ne_again (b : Byte) (s t : State) (ph : Phase) : sysExData b s ≠ .again ph t := by
  unfold sysExData
  split_ifs
  · split <;> simp
  · simp

/-- A latched state dispatches a byte again only in `DispatchStatus`, and never a data byte. -/
theorem dispatch_latched_again {ds : DecState} {b : Byte} {s t : State} {ph : Phase}
    (h : dispatch (.latched ds) b s = .again ph t) : ph = .dispatchStatus ∧ isData b = false := by
  cases hd : isData b with
  | false =>
    have hstatus : dispatch (.latched ds) b s = sysExStatus b s ∨ dispatch (.latched ds) b s = reprocess s := by
      cases ds <;> simp [dispatch, hd]
    obtain hs | hs := hstatus <;> rw [hs] at h
    · exact ⟨sysExStatus_again h, rfl⟩
    · cases h; exact ⟨rfl, rfl⟩
  | true => cases ds <;> simp [dispatch, hd, sysExData_ne_again] at h

theorem dispatchLoop_again (n : Nat) {ph ph' : Phase} {b : Byte} {s t : State} (h : dispatch ph b s = .again ph' t) :
    dispatchLoop (n + 1) ph b s = dispatchLoop n ph' b t := by
  rw [dispatchLoop, h]

/-- Two dispatches are enough: the second one, in `DispatchStatus`, ends the feed. -/
theorem dispatchLoop_two_suffice (n : Nat) (ds : DecState) (b : Byte) (s : State) :
    dispatchLoop (n + 2) (.latched ds) b s = dispatchLoop 2 (.latched ds) b s := by
  cases h : dispatch (.latched ds) b s with
  | done t => simp only [dispatchLoop, h]
  | stop f => simp only [dispatchLoop, h]
  | again ph t =>
    obtain ⟨rfl, -⟩ := dispatch_latched_again h
    rw [dispatchLoop_again _ h, dispatchLoop_again _ h]
    rfl

/-- One dispatch is enough for a data byte. -/
theorem dispatchLoop_one_suffices {b : Byte} (hd : isData b = true) (ds : DecState) (s : State) :
    dispatchLoop 1 (.latched ds) b s = dispatchLoop 2 (.latched ds) b s := by
  cases h : dispatch (.latched ds) b s with
  | done t => simp only [dispatchLoop, h]
  | stop f => simp only [dispatchLoop, h]
  | again ph t =>
    obtain ⟨-, hstatus⟩ := dispatch_latched_again h
    simp [hd] at hstatus

/-- A feed that overflows is of a data byte in `AwaitSysEx`, which emits no event. -/
theorem feed_event_excludes_overflow {b : Byte} {s t : State} (h : feed b s = .next t) :
    ¬ (t.sig.ev.isSome ∧ t.sig.ovf = true) := by
  rintro ⟨hev, hovf⟩
  obtain ⟨e, he⟩ := Option.isSome_iff_exists.1 hev
  obtain ⟨hdata, hsysEx, -⟩ := (feed_ovf h).1 hovf
  cases feed_emits h he with
  | realTime hr => simp [not_realTime_of_data b hdata] at hr
  | oneData _ hs => simp [hsysEx] at hs
  | twoData _ hs => simp [hsysEx] at hs
  | sysEx hb => simp [hb, isData] at hdata

/-- Settles O31: the loop's bound, and the two ways a feed can speak. -/
theorem atMostTwoDispatches : Obligations.AtMostTwoDispatches := by
  refine ⟨fun n ds b s hn => ⟨?_, fun hd => dispatchLoop_one_suffices hd ds s⟩, fun b s t h => ?_⟩
  · obtain ⟨m, rfl⟩ := Nat.exists_eq_add_of_le' hn
    exact dispatchLoop_two_suffice m ds b s
  · rw [exec_decodeByte] at h
    refine ⟨feed_event_excludes_overflow h, fun hd hr hev => ?_⟩
    obtain ⟨e, he⟩ := Option.isSome_iff_exists.1 hev
    cases feed_emits h he with
    | realTime realTime => simp [hr] at realTime
    | oneData data => simp [hd] at data
    | twoData data => simp [hd] at data
    | sysEx hb hs => exact ⟨hb, hs⟩

/-! ## Events carry a matching status (R104) -/

/-- Settles O33: `RS` is of the class that the state awaits data for, and the bytes read are as many as `IDX`, each below the
capacity. -/
theorem eventsCarryMatchingStatus : Obligations.EventsCarryMatchingStatus := by
  intro b s t hstatus h
  rw [exec_decodeByte] at h
  refine ⟨fun status d0 d1 hev => ?_, fun status d hev => ?_, fun bytes len hev => ?_⟩ <;> cases feed_emits h hev
  case twoData _ hs => exact isTwo_of_runningStatusOk hstatus (.inr hs)
  case oneData _ hs => simpa [runningStatusOk, hs] using hstatus
  case sysEx _ _ hread =>
    obtain ⟨hlen, hbytes⟩ := written_of_memReadPrefix s s.idx bytes hread
    exact ⟨hlen.symm, not_lt.1 fun hlt => lt_irrefl _ (hbytes _ hlt).1⟩

/-! ## Byte sequences (R104) -/

/-- A sequence that answers outputs feeds its first byte and then the rest. -/
theorem feedBytes_cons {b : Byte} {bs : List Byte} {s t : State} {os : List (Option DecodedEvent × Bool)} :
    feedBytes (b :: bs) s = some (os, t)
      ↔ ∃ x rest, feed b s = .next x ∧ feedBytes bs x = some (rest, t) ∧ os = (x.sig.ev, x.sig.ovf) :: rest := by
  rw [feedBytes, exec_decodeByte]
  cases feed b s <;> simp [eq_comm, and_comm]

/-- Two states with the same registers, queues, `BUF` and parameters: they may differ in wires, ports, inputs and the
cycle counter only. -/
structure SameRegisters (s t : State) : Prop where
  arch : SameArch s t
  buf : s.buf = t.buf
  cfg : s.cfg = t.cfg

theorem SameRegisters.refl (s : State) : SameRegisters s s := ⟨by constructor <;> rfl, rfl, rfl⟩

/-- A real-time byte fed to one of two such states leaves them such (R69). -/
theorem SameRegisters.of_realTime {s t : State} (h : SameRegisters s t) (b : Byte) :
    SameRegisters ((beginFeed s).emitEvent (.realTime b)) t := ⟨{ h.arch with }, h.buf, h.cfg⟩

theorem SameRegisters.decoderAgrees {s t : State} (h : SameRegisters s t) : DecoderAgrees s t where
  ds := h.arch.ds.symm
  rs := h.arch.rs.symm
  d0 := h.arch.d0.symm
  idx := h.arch.idx.symm
  cap := by rw [h.cfg]
  buf := fun _ _ _ => by rw [h.buf]

/-- Feeding one byte to two states with the same registers gives the same outputs and the same registers again. -/
theorem feed_sameRegisters {b : Byte} {s s' t : State} (h : SameRegisters s s') (hf : feed b s = .next t) :
    ∃ t', feed b s' = .next t' ∧ SameRegisters t t' ∧ t'.sig.ev = t.sig.ev ∧ t'.sig.ovf = t.sig.ovf := by
  obtain ⟨f, hfault, -⟩ | ⟨x, t', cs, hx, hf', hagree, hev, hovf, -, -, hd1, hbuf⟩ := feed_agrees h.decoderAgrees b
  · cases hf.symm.trans hfault
  cases hf.symm.trans hx
  have frame := feed_frame hf
  have frame' := feed_frame hf'
  have harch : SameArch t t' :=
    { ds := hagree.ds.symm, rs := hagree.rs.symm, d0 := hagree.d0.symm, d1 := (hd1 h.arch.d1.symm).symm
      idx := hagree.idx.symm
      bs := by rw [frame'.bs, frame.bs, h.arch.bs]
      brem := by rw [frame'.brem, frame.brem, h.arch.brem]
      serq := by rw [frame'.serq, frame.serq, h.arch.serq]
      btnq := by rw [frame'.btnq, frame.btnq, h.arch.btnq]
      outq := by rw [frame'.outq, frame.outq, h.arch.outq]
      cmask := by rw [frame'.cmask, frame.cmask, h.arch.cmask]
      cmode := by rw [frame'.cmode, frame.cmode, h.arch.cmode] }
  exact ⟨t', hf', ⟨harch, hbuf h.buf, by rw [frame.cfg, frame'.cfg, h.cfg]⟩, hev.symm, hovf.symm⟩

/-- Only a real-time byte gives a RealTime output. -/
theorem not_realTimeOutput_of_feed {b : Byte} {s t : State} (h : feed b s = .next t) (hr : isRealTime b = false) :
    isRealTimeOutput (t.sig.ev, t.sig.ovf) = false := by
  cases hev : t.sig.ev with
  | none => rfl
  | some e =>
    cases feed_emits h hev with
    | realTime realTime => simp [hr] at realTime
    | oneData | twoData | sysEx => rfl

/-- Deleting the real-time bytes of a sequence deletes the RealTime outputs, from any state with the same registers. -/
theorem feedBytes_without_realTime {bs : List Byte} {s s' t : State} {os : List (Option DecodedEvent × Bool)}
    (hsame : SameRegisters s s') (h : feedBytes bs s = some (os, t)) :
    ∃ u, feedBytes (bs.filter fun b => !isRealTime b) s' = some (os.filter fun o => !isRealTimeOutput o, u)
      ∧ SameRegisters t u := by
  induction bs generalizing s s' os with
  | nil => cases h; exact ⟨s', rfl, hsame⟩
  | cons b bs ih =>
    obtain ⟨x, rest, hx, hrest, rfl⟩ := feedBytes_cons.1 h
    cases hr : isRealTime b with
    | true =>
      cases (feed_realTime hr s).symm.trans hx
      simpa [hr, isRealTimeOutput] using ih (hsame.of_realTime b) hrest
    | false =>
      obtain ⟨x', hx', hsame', hev, hovf⟩ := feed_sameRegisters hsame hx
      obtain ⟨u, hu, hend⟩ := ih hsame' hrest
      refine ⟨u, ?_, hend⟩
      simp only [List.filter_cons, hr, not_realTimeOutput_of_feed hx hr]
      exact feedBytes_cons.2 ⟨x', _, hx', hu, by rw [hev, hovf]; rfl⟩

/-- Settles O32: both sequences begin in the same state. -/
theorem realTimeTransparency : Obligations.RealTimeTransparency := by
  intro bs s t os h
  obtain ⟨u, hu, hsame⟩ := feedBytes_without_realTime (SameRegisters.refl s) h
  exact ⟨u, hu, hsame.arch, hsame.buf⟩

/-- Only 0xF0 begins a SysEx (R79, R88). -/
theorem feed_outside_sysEx {b : Byte} {s t : State} (h : feed b s = .next t) (hs : s.ds ≠ .awaitSysEx) (hb : b ≠ 0xF0) :
    t.ds ≠ .awaitSysEx := by
  obtain ⟨-, rfl⟩ | ⟨-, -, rfl⟩ | ⟨-, -, rfl⟩ | ⟨-, -, rfl⟩ | ⟨-, -, rfl⟩ | ⟨-, hsysEx, -⟩ | ⟨-, hsysEx, -⟩
    | ⟨hd, hr, -, rfl⟩ | ⟨-, hsysEx, -⟩ := feed_cases h
  · exact hs
  · exact hs
  · simp
  · simp
  · exact hs
  · exact absurd hsysEx hs
  · exact absurd hsysEx hs
  · obtain ⟨-, hc⟩ | ⟨-, hc⟩ | ⟨hstart, -⟩ | ⟨-, hc⟩ := classifyStatus_cases hd hr ((beginFeed s).raise .reprocess)
    · simp [hc]
    · simp [hc]
    · exact absurd hstart hb
    · simp [hc]
  · exact absurd hsysEx hs

/-- A SysEx event is emitted in `AwaitSysEx` only (R77). -/
theorem not_sysExOutput_of_feed {b : Byte} {s t : State} (h : feed b s = .next t) (hs : s.ds ≠ .awaitSysEx) :
    isSysExOutput (t.sig.ev, t.sig.ovf) = false := by
  cases hev : t.sig.ev with
  | none => rfl
  | some e =>
    cases feed_emits h hev with
    | realTime | oneData | twoData => rfl
    | sysEx _ hsysEx => exact absurd hsysEx hs

/-- Settles O34, by induction on the bytes: no feed without 0xF0 enters `AwaitSysEx`. -/
theorem noSysExEventBeforeNewStart : Obligations.NoSysExEventBeforeNewStart := by
  intro bs
  induction bs with
  | nil =>
    intro s t os _ _ h
    cases h
    exact List.forall_mem_nil _
  | cons b bs ih =>
    intro s t os hs hbs h
    rw [List.mem_cons, not_or] at hbs
    obtain ⟨hb, hbs⟩ := hbs
    obtain ⟨x, rest, hx, hrest, rfl⟩ := feedBytes_cons.1 h
    exact List.forall_mem_cons.2
      ⟨not_sysExOutput_of_feed hx hs, ih x t rest (feed_outside_sysEx hx hs (Ne.symm hb)) hbs hrest⟩

end Sys2Proof.Machine
end

section
/-! PROOFS. The statements of spec/41_button.md: the press, the tick and the release (R106 to R110), press lengths in ticks
(R111), and the order of a cycle's tick and edge (R113, R114). -/

namespace Sys2Proof.Machine

/-! ## The classifier's instructions (R106 to R109) -/

/-- Settles O36: the update is the instruction's meaning itself, which reads no `BS` or `BREM`. -/
theorem pressStartsTimer : Obligations.PressStartsTimer := fun _ => rfl

theorem exec_tick_idle {s : State} (hb : s.bs = .idle) : exec .tick s = .next s := by
  simp only [exec, execTick, hb]

/-- A tick that leaves ticks to go only counts. -/
theorem exec_tick_counts {s : State} (hb : s.bs = .timing) (hn : 2 ≤ s.brem) :
    exec .tick s = .next { s with brem := s.brem - 1 } := by
  have hleft : s.brem - 1 ≠ 0 := by omega
  simp only [exec, execTick, hb, if_neg hleft]

/-- The last tick expires. -/
theorem exec_tick_expires {s : State} (hb : s.bs = .timing) (hn : s.brem = 1) :
    exec .tick s = .next { s.emitPress .veryLong with bs := .idle, brem := 0 } := by
  simp only [exec, execTick, hb, hn, Nat.sub_self, if_true]

/-- Settles O37: one lemma per clause. -/
theorem tickCountsDownAndExpires : Obligations.TickCountsDownAndExpires := fun _ =>
  ⟨exec_tick_counts, exec_tick_expires, exec_tick_idle⟩

theorem exec_btnRise_idle {s : State} (hb : s.bs = .idle) : exec .btnRise s = .next s := by
  simp only [exec, execBtnRise, hb]

/-- A release of a timed press emits the kind of the ticks left, and stops the timer. -/
theorem exec_btnRise_timing {s : State} (hb : s.bs = .timing) :
    exec .btnRise s = .next { s.emitPress (releaseKind s.cfg s.brem) with bs := .idle, brem := 0 } := by
  simp only [exec, execBtnRise, hb]

theorem releaseKind_short {cfg : Config} {n : Nat} (h : n > cfg.vlongTicks - cfg.longTicks) :
    releaseKind cfg n = .short := if_pos h

theorem releaseKind_long {cfg : Config} {n : Nat} (h : n ≤ cfg.vlongTicks - cfg.longTicks) :
    releaseKind cfg n = .long := if_neg (Nat.not_lt.2 h)

/-- Settles O38: the release of a timed press, with its kind on either side of R109's boundary. -/
theorem releaseClassifiesPress : Obligations.ReleaseClassifiesPress := by
  refine fun s => ⟨fun hb h => ?_, fun hb h => ?_, exec_btnRise_idle⟩
  · rw [exec_btnRise_timing hb, releaseKind_short h]
    rfl
  · rw [exec_btnRise_timing hb, releaseKind_long h]
    rfl

/-! ## Press lengths (R111) -/

/-- Fewer ticks than are left only count. -/
theorem ticks_counts {s : State} (hb : s.bs = .timing) {k : Nat} (hk : k < s.brem) :
    ticks k s = .next { s with brem := s.brem - k } := by
  induction k with
  | zero => rfl
  | succ k ih =>
    have hleft : 2 ≤ s.brem - k := by omega
    rw [ticks, ih (by omega), andThen_next]
    exact exec_tick_counts hb hleft

/-- As many ticks as are left expire at the last. -/
theorem ticks_expires {s : State} (hb : s.bs = .timing) (hn : 1 ≤ s.brem) :
    ticks s.brem s = .next { s.emitPress .veryLong with bs := .idle, brem := 0 } := by
  obtain ⟨k, hk⟩ := Nat.exists_eq_add_of_le' hn
  have hlast : s.brem - k = 1 := by omega
  rw [hk, ticks, ticks_counts hb (by omega), andThen_next]
  exact exec_tick_expires hb hlast

/-- R109's kind, read from the ticks left, is R111's, read from the ticks since the press. -/
theorem releaseKind_after_ticks {cfg : Config} (hl : cfg.longTicks ≤ cfg.vlongTicks) {k : Nat} (hk : k < cfg.vlongTicks) :
    releaseKind cfg (cfg.vlongTicks - k) = if k < cfg.longTicks then .short else .long := by
  split_ifs with hshort
  · exact releaseKind_short (by omega)
  · exact releaseKind_long (by omega)

theorem longTicks_le_vlongTicks {cfg : Config} (h : legalConfig cfg = true) : cfg.longTicks ≤ cfg.vlongTicks := by
  simp only [legalConfig, Bool.and_eq_true, decide_eq_true_eq] at h
  omega

/-- Settles O39: the press loads `VLONG_TICKS`, so `k` ticks leave `VLONG_TICKS - k`, and the last of them expires. -/
theorem pressLengthInTicks : Obligations.PressLengthInTicks := by
  intro s p k hlegal hpress
  rw [pressStartsTimer] at hpress
  cases hpress
  refine ⟨fun hk => ?_, ?_⟩
  · have hkind := releaseKind_after_ticks (longTicks_le_vlongTicks hlegal) hk
    exact ⟨_, _, ticks_counts rfl hk, rfl, rfl, rfl, exec_btnRise_timing rfl, congrArg some hkind⟩
  · have hexpires := ticks_expires (s := { s with bs := .timing, brem := s.cfg.vlongTicks }) rfl (one_le_vlongTicks hlegal)
    exact ⟨_, hexpires, rfl, rfl, rfl, exec_btnRise_idle rfl⟩

/-! ## The tick and the edge of one cycle (R105, R113, R114) -/

/-- What a running step does to the classifier is R105's `classify` of its tick and of the edge it takes. -/
theorem step_classifies {s t : State} (h : step s = .next t) (hr : (nextInputs s).rst = false) :
    (t.bs, t.brem, t.sig.bev) = classifyR105 s.cfg (nextInputs s).tick
      (if (nextInputs s).btnRun then s.btnq.head? else none) s.bs s.brem := by
  obtain ⟨hreset, -⟩ | ⟨-, d, cs, -, -, -, rfl⟩ := step_cases h
  · simp [hr] at hreset
  · have hedge : (if btnPopR142 (nextInputs s) s then s.btnq.head? else none)
        = if (nextInputs s).btnRun then s.btnq.head? else none := by
      cases hq : s.btnq <;> simp [btnPopR142, hq]
    rw [← hedge]
    rfl

/-- With no press being timed, neither a tick nor an edge emits a kind (R114). -/
theorem classifyR105_idle_emits_none (cfg : Config) (tick : Bool) (e : Option Edge) (n : Nat) :
    (classifyR105 cfg tick e .idle n).2.2 = none := by
  match e with
  | none | some .falling | some .rising => simp [classifyR105]

/-- The tick that expires is seen before any edge, so its kind stands (R113). -/
theorem classifyR105_expiry_emits_veryLong (cfg : Config) (e : Option Edge) :
    (classifyR105 cfg true e .timing 1).2.2 = some .veryLong := by
  match e with
  | none | some .falling | some .rising => rfl

/-- Settles O40: the step is R105's `classify`, whose release finds the timer idle after the tick. -/
theorem expiryWinsOverRelease : Obligations.ExpiryWinsOverRelease := by
  intro s t hstep hr
  have hclass := step_classifies hstep hr
  refine ⟨fun hb hn htick => ⟨?_, fun hrun hhead => ?_⟩, fun hb => ?_⟩
  · rw [htick, hb, hn] at hclass
    exact (congrArg (·.2.2) hclass).trans (classifyR105_expiry_emits_veryLong _ _)
  · rw [htick, hb, hn, hrun, if_pos rfl, hhead] at hclass
    exact ⟨congrArg (·.1) hclass, congrArg (·.2.1) hclass⟩
  · rw [hb] at hclass
    exact (congrArg (·.2.2) hclass).trans (classifyR105_idle_emits_none _ _ _ _)

end Sys2Proof.Machine
end

section
/-! PROOFS. The statements of spec/42_fifo.md: the pushes (R119, R121, R123, R124) and the pops (R120, R122, R125) as
instructions, how a step runs the byte or the edge it takes (R144, R145), and the queues over one cycle (R116, R126). -/

namespace Sys2Proof.Machine

/-! ## The pushes (R117, R119, R121, R123, R124) -/

theorem exec_serPush_accepted {s : State} (b : Byte) (h : s.serq.length < s.cfg.serDepth) :
    exec (.serPush b) s = .next { s with serq := s.serq ++ [b] } := if_pos (decide_eq_true h)

theorem exec_serPush_dropped {s : State} (b : Byte) (h : ¬ s.serq.length < s.cfg.serDepth) :
    exec (.serPush b) s = .next (s.withRaised [.channelFull]) := if_neg (by simpa [fifoRoom] using h)

theorem exec_btnPush_accepted {s : State} (e : Edge) (h : s.btnq.length < s.cfg.btnDepth) :
    exec (.btnPush e) s = .next { s with btnq := s.btnq ++ [e] } := if_pos (decide_eq_true h)

theorem exec_btnPush_dropped {s : State} (e : Edge) (h : ¬ s.btnq.length < s.cfg.btnDepth) :
    exec (.btnPush e) s = .next (s.withRaised [.channelFull]) := if_neg (by simpa [fifoRoom] using h)

theorem pushOut_accepted {s : State} (w : OutWord) (h : s.outq.length < s.cfg.outDepth) :
    pushOut w s = .next { s with outq := s.outq ++ [w] } := if_pos (decide_eq_true h)

theorem pushOut_dropped {s : State} (w : OutWord) (h : ¬ s.outq.length < s.cfg.outDepth) :
    pushOut w s = .next (s.withRaised [.channelFull]) := if_neg (by simpa [fifoRoom] using h)

/-- Settles O41: one lemma per queue and side of its depth. -/
theorem ingressPushAcceptsOrDrops : Obligations.IngressPushAcceptsOrDrops := fun _ b e =>
  ⟨exec_serPush_accepted b, exec_serPush_dropped b, exec_btnPush_accepted e, exec_btnPush_dropped e⟩

/-- Settles O42: both instructions are a push into `OUTQ` of their word. -/
theorem outputPushAcceptsOrDrops : Obligations.OutputPushAcceptsOrDrops := fun _ _ _ _ _ =>
  ⟨fun h => ⟨pushOut_accepted _ h, pushOut_accepted _ h⟩, fun h => ⟨pushOut_dropped _ h, pushOut_dropped _ h⟩⟩

/-! ## The pops (R118, R120, R122, R125) -/

theorem exec_serPop_cons {s : State} {b : Byte} {q : List Byte} (h : s.serq = b :: q) :
    exec .serPop s = .next { s with serq := q, sig := { s.sig with b := some b } } := by
  simp only [exec, execSerPop, h]

theorem exec_serPop_nil {s : State} (h : s.serq = []) : exec .serPop s = .next s := by
  simp only [exec, execSerPop, h]

theorem exec_btnPop_cons {s : State} {e : Edge} {q : List Edge} (h : s.btnq = e :: q) :
    exec .btnPop s = .next { s with btnq := q, sig := { s.sig with e := some e } } := by
  simp only [exec, execBtnPop, h]

theorem exec_btnPop_nil {s : State} (h : s.btnq = []) : exec .btnPop s = .next s := by
  simp only [exec, execBtnPop, h]

theorem exec_outPop_cons {s : State} {w : OutWord} {q : List OutWord} (h : s.outq = w :: q) :
    exec .outPop s = .next { s with outq := q } := by
  simp only [exec, execOutPop, h]

theorem exec_outPop_nil {s : State} (h : s.outq = []) : exec .outPop s = .next s := by
  simp only [exec, execOutPop, h]

/-- Settles O43: one lemma per queue, empty or not. -/
theorem popTakesHead : Obligations.PopTakesHead := fun _ _ _ _ _ _ _ =>
  ⟨exec_serPop_cons, exec_btnPop_cons, exec_outPop_cons, exec_serPop_nil, exec_btnPop_nil, exec_outPop_nil⟩

/-! ## The byte and the edge that a step runs (R144, R145) -/

/-- From a legal boundary of a legal instance a step is a cycle. -/
theorem step_eq_cycle {s : State} (hlegal : legalConfig s.cfg = true) (hboundary : boundaryOk s = true) :
    step s = cycle (nextInputs s) s := by
  rw [step, if_pos hlegal, if_pos hboundary]

theorem runByte_some {s : State} {b : Byte} (h : s.sig.b = some b) : runByte s = exec (decodeByte b) s := by
  simp only [runByte, h]

theorem runEdge_some {s : State} {e : Edge} (h : s.sig.e = some e) : runEdge s = exec (edgeInstr e) s := by
  simp only [runEdge, h]

/-- The ingress pushes leave the head of a queue that was not empty. -/
theorem pushPhase_serq_cons {p : PortsIn} {s t : State} {b : Byte} {q : List Byte} (h : pushPhase p s = .next t)
    (hq : s.serq = b :: q) : ∃ r, t.serq = b :: r := by
  obtain ⟨cs, -, hpush⟩ := pushPhase_eq p s
  cases hpush.symm.trans h
  exact ⟨_, congrArg (· ++ _) hq⟩

/-- Settles O16: the pushes leave `b` at the head, `SER_POP` hands it over, and the decoder's phase runs it. -/
theorem stepRunsDecodedByte : Obligations.StepRunsDecodedByte := by
  intro s t u b q hlegal hboundary hr hclear hrun hq hpush hpop
  obtain ⟨r, hhead⟩ := pushPhase_serq_cons hpush hq
  have hb : u.sig.b = some b := by
    cases (exec_serPop_cons hhead).symm.trans hpop
    rfl
  have htakes : decoderTakes (nextInputs s) s = true := by simp [decoderTakes, hr, hclear, hrun, hq, emptyQ]
  have hdecoder : decoderPhase (nextInputs s).decClear (decoderTakes (nextInputs s) s) t = exec (decodeByte b) u := by
    simp [decoderPhase, hclear, htakes, hpop, runByte_some hb]
  refine ⟨hb, rfl, ?_⟩
  simp [step_eq_cycle hlegal hboundary, cycle, hr, hpush, hdecoder]

theorem decode_btnEdge (cfg : Config) (e : Edge) : decode cfg (.btnEdge (bitOfEdge e)) = .ok (edgeInstr e) := by
  rw [decode, edgeOfBit_bitOfEdge]

/-- A cycle that asks for an edge alone runs the classifier's phase and the push of a press kind. -/
theorem cycle_btnRun (s : State) : cycle { PortsIn.idle with btnRun := true } s
    = andThen (classifierPhase false (classifierTakes { PortsIn.idle with btnRun := true } s) (beginCycle s)) fun t =>
      andThen (pressPhase t) (endCycle false s) := rfl

/-- Settles O18: `BTN_POP` hands `e` to the classifier's phase, which runs it. -/
theorem stepRunsDecodedEdge : Obligations.StepRunsDecodedEdge := by
  intro s e q hlegal hboundary hinputs hq
  have hpop := exec_btnPop_cons (s := beginCycle s) hq
  have htakes : classifierTakes { PortsIn.idle with btnRun := true } s = true := by
    simp [classifierTakes, PortsIn.idle, emptyQ, hq]
  refine ⟨decode_btnEdge _ _, ?_⟩
  rw [step_eq_cycle hlegal hboundary, hinputs, cycle_btnRun, htakes]
  simp [classifierPhase, execIf, hpop, runEdge_some]

/-! ## The queues over one cycle (R116, R126) -/

/-- What a step without reset leaves, the codes `cs` aside, is the end of R142's cycle after some end `d` of the decoder's part. -/
theorem step_running {s t : State} (h : step s = .next t) (hr : (nextInputs s).rst = false) :
    ∃ d cs, t = withCodes cs (finishR142 (nextInputs s) s d) := by
  obtain ⟨hreset, -⟩ | ⟨-, d, cs, -, -, -, rfl⟩ := step_cases h
  · simp [hr] at hreset
  · exact ⟨d, cs, rfl⟩

/-- R116 accepts the first requests, as many as there is room for. -/
theorem fifoAccept_eq_take {α : Type} (d n : Nat) (ps : List α) : fifoAccept d n ps = ps.take (d - n) := by
  induction ps generalizing n with
  | nil => simp [fifoAccept]
  | cons p ps ih =>
    by_cases hroom : n < d
    · have hleft : d - n = (d - (n + 1)) + 1 := by omega
      simp [fifoAccept, hroom, ih, hleft]
    · have hfull : d - n = 0 := by omega
      simp [fifoAccept, hroom, ih, hfull]

/-- A queue's one producer is accepted iff its strobe is set and there is room. -/
theorem fifoAccept_strobe {α : Type} (d n : Nat) (strobe : Bool) (x : α) :
    fifoAccept d n (if strobe = true then [x] else []) = if strobe = true ∧ n < d then [x] else [] := by
  cases strobe <;> simp [fifoAccept]

/-- R116's cycle is what the pop leaves, then what was accepted: a pop of an empty queue leaves it empty (R118). -/
theorem fifoCycle_eq_append {α : Type} (d : Nat) (q : List α) (pop : Bool) (ps : List α) :
    fifoCycle d q pop ps = (if pop = true then q.tail else q) ++ fifoAccept d q.length ps := by
  cases pop <;> cases q <;> rfl

/-- An ingress queue over one cycle: its unit asks for the pop with `run`, its producer for the push with `strobe`. -/
theorem fifoCycle_ingress {α : Type} (d : Nat) (q : List α) (run strobe : Bool) (x : α) :
    fifoCycle d q (run && !q.isEmpty) (if strobe = true then [x] else [])
      = (if run = true then q.tail else q) ++ if strobe = true ∧ q.length < d then [x] else [] := by
  rw [fifoCycle_request, fifoCycle_eq_append, fifoAccept_strobe]

/-- A pop of an empty queue hands over nothing (R118). -/
theorem popped_eq_head? {α : Type} (q : List α) (run : Bool) :
    (if (run && !q.isEmpty) = true then q.head? else none) = if run = true then q.head? else none := by
  cases q <;> simp

/-- Settles O44: each ingress queue of a running cycle is R116's cycle with one producer. -/
theorem ingressQueuesObeyFifoLaw : Obligations.IngressQueuesObeyFifoLaw := by
  intro s t hstep hr
  obtain ⟨d, cs, rfl⟩ := step_running hstep hr
  have hasks : (nextInputs s).decClear = false ∧ (nextInputs s).decRun = true
      ↔ (!(nextInputs s).decClear && (nextInputs s).decRun) = true := by simp
  simp only [hasks]
  exact ⟨fifoCycle_ingress _ _ _ _ _, fifoCycle_ingress _ _ _ _ _, popped_eq_head? _ _, popped_eq_head? _ _⟩

/-- Settles O45: `OUTQ` of a running cycle is R116's cycle of the filter's request and then the classifier's. -/
theorem outputQueueMergesInOrder : Obligations.OutputQueueMergesInOrder := by
  intro s t hstep hr
  obtain ⟨d, cs, rfl⟩ := step_running hstep hr
  rw [← fifoAccept_eq_take, ← fifoCycle_eq_append]
  rfl

end Sys2Proof.Machine
end

section
/-! PROOFS. The statements of spec/43_filter_config.md: what passes the channel filter (R128 to R132), and the configuration
registers (R134 to R140). -/

namespace Sys2Proof.Machine

/-! ## The filter (R128 to R132) -/

theorem channelOf_toNat (b : Byte) : (channelOf b).toNat = b.toNat % 16 := by
  simp [channelOf]

/-- The kind gate as numbers (R130). -/
theorem kindPasses_iff (modCcId : Nat) (status d0 : Byte) : kindPasses modCcId status d0 = true ↔
    status.toNat / 16 = 0x8 ∨ status.toNat / 16 = 0x9 ∨ status.toNat / 16 = 0xE
      ∨ (status.toNat / 16 = 0xB ∧ d0.toNat = modCcId) := by
  simp only [kindPasses, Bool.or_eq_true, Bool.and_eq_true, kindOf_beq_iff, decide_eq_true_eq, or_assoc]
  rfl

/-- The filter's three tests of a TwoData event: a channel status, its mask bit, its kind. -/
theorem filterEvent_twoData_eq_some_iff (mask : BitVec 16) (modCcId : Nat) (status d0 d1 : Byte) (m : Byte × Byte × Byte) :
    filterEvent mask modCcId (some (.twoData status d0 d1)) = some m ↔ m = (status, d0, d1)
      ∧ isChannelStatus status = true ∧ mask.getLsbD (channelOf status).toNat = true
      ∧ kindPasses modCcId status d0 = true := by
  simp only [filterEvent, Option.ite_none_right_eq_some, Option.some.injEq, Bool.and_eq_true, and_assoc, eq_comm (b := m)]
  tauto

theorem isChannelStatus_iff (b : Byte) : isChannelStatus b = true ↔ 0x80 ≤ b.toNat ∧ b.toNat ≤ 0xEF := by
  simp [isChannelStatus]

/-- Settles O47: only a TwoData event can pass, and its three tests are the statement's. -/
theorem filterPassesExactly : Obligations.FilterPassesExactly := by
  intro mask modCcId ev m
  match ev with
  | none | some (.realTime _) | some (.oneData _ _) | some (.sysEx _ _) => simp [filterEvent]
  | some (.twoData status d0 d1) =>
    rw [filterEvent_twoData_eq_some_iff, isChannelStatus_iff, channelOf_toNat, kindPasses_iff, and_assoc]
    constructor
    · exact fun h => ⟨status, d0, d1, rfl, h⟩
    · rintro ⟨_, _, _, ⟨⟩, h⟩
      exact h

/-! ## A configuration write (R136, R137, R139, R140) -/

theorem exec_cfgMask_inRange {v : BitVec 32} (h : v.toNat ≤ 0xFFFF) (s : State) :
    exec (.cfgMask v) s = .next { s with cmask := v.extractLsb' 0 16 } := if_pos h

theorem exec_cfgMask_outOfRange {v : BitVec 32} (h : 0xFFFF < v.toNat) (s : State) :
    exec (.cfgMask v) s = .next s := if_neg (Nat.not_le.2 h)

theorem exec_cfgMode_inRange {v : BitVec 32} (h : v.toNat ≤ 3) (s : State) :
    exec (.cfgMode v) s = .next { s with cmode := v.extractLsb' 0 2 } := if_pos h

theorem exec_cfgMode_outOfRange {v : BitVec 32} (h : 3 < v.toNat) (s : State) :
    exec (.cfgMode v) s = .next s := if_neg (Nat.not_le.2 h)

/-- Settles O48: one lemma per register and side of its range; a reserved selector does nothing. -/
theorem configurationWrites : Obligations.ConfigurationWrites := fun s _ _ =>
  ⟨(exec_cfgMask_inRange · s), (exec_cfgMask_outOfRange · s), (exec_cfgMode_inRange · s), (exec_cfgMode_outOfRange · s), rfl⟩

/-! ## The configuration port of a cycle (R135) -/

/-- `CMASK` after R135's write. -/
theorem cfgWriteR135_fst (sel : BitVec 2) (v : BitVec 32) (cmask : BitVec 16) (cmode : BitVec 2) :
    (cfgWriteR135 sel v cmask cmode).1 = if sel = 1 ∧ v.toNat ≤ 0xFFFF then v.extractLsb' 0 16 else cmask := by
  unfold cfgWriteR135
  split_ifs <;> rfl

/-- `CMODE` after R135's write: the selectors of the two registers differ. -/
theorem cfgWriteR135_snd (sel : BitVec 2) (v : BitVec 32) (cmask : BitVec 16) (cmode : BitVec 2) :
    (cfgWriteR135 sel v cmask cmode).2 = if sel = 0 ∧ v.toNat ≤ 3 then v.extractLsb' 0 2 else cmode := by
  unfold cfgWriteR135
  by_cases hmask : sel = 1
  · have hmode : sel ≠ 0 := by simp [hmask]
    simp only [hmode, false_and, if_false]
    split_ifs <;> rfl
  · simp only [hmask, false_and, if_false]
    split_ifs <;> rfl

theorem finishR142_cmask (p : PortsIn) (s d : State) : (finishR142 p s d).cmask
    = if p.cfgWe = true ∧ p.cfgSel = 1 ∧ p.cfgValue.toNat ≤ 0xFFFF then p.cfgValue.extractLsb' 0 16 else s.cmask := by
  rw [ite_and, ← cfgWriteR135_fst p.cfgSel p.cfgValue s.cmask s.cmode]
  exact apply_ite Prod.fst _ _ _

theorem finishR142_cmode (p : PortsIn) (s d : State) : (finishR142 p s d).cmode
    = if p.cfgWe = true ∧ p.cfgSel = 0 ∧ p.cfgValue.toNat ≤ 3 then p.cfgValue.extractLsb' 0 2 else s.cmode := by
  rw [ite_and, ← cfgWriteR135_snd p.cfgSel p.cfgValue s.cmask s.cmode]
  exact apply_ite Prod.snd _ _ _

/-- Settles O49: a running cycle ends in R135's write of the registers it found. -/
theorem configurationPortOfCycle : Obligations.ConfigurationPortOfCycle := by
  intro s t hstep hr
  obtain ⟨d, cs, rfl⟩ := step_running hstep hr
  exact ⟨finishR142_cmask _ s d, finishR142_cmode _ s d⟩

/-! ## The mode has no effect (R134) -/

/-- A state with another filter mode. -/
def withMode (m : BitVec 2) (s : State) : State := { s with cmode := m }

/-- A state with another filter mode `n`, whose ports read back the mode `m` that the cycle began with. -/
def withModeReadback (n m : BitVec 2) (s : State) : State := { s with cmode := n, out := { s.out with cfgModeQ := m } }

/-- The decoder neither reads nor writes the mode. -/
theorem feed_withMode (b : Byte) (m : BitVec 2) (s : State) :
    feed b (withMode m s) = andThen (feed b s) fun t => .next (withMode m t) := by
  obtain ⟨f, hx, hy⟩ | ⟨t, u, cs, ht, hu, hagree, hev, hovf, htcodes, hucodes, hd1, hbuf⟩ :=
    feed_agrees (x := withMode m s) (y := s) ⟨rfl, rfl, rfl, rfl, rfl, fun _ _ _ => rfl⟩ b
  · rw [hx, hy]; rfl
  · have ft := feed_frame ht
    have fu := feed_frame hu
    have hcodes : t.sig.codes = u.sig.codes := htcodes.trans hucodes.symm
    have h : t = withMode m u := by
      obtain ⟨_, _, _, _, _, _, _, _, _, _, _, _, _, _, _, ⟨_, _, _, _, _, _⟩, _, _⟩ := t
      obtain ⟨_, _, _, _, _, _, _, _, _, _, _, _, _, _, _, ⟨_, _, _, _, _, _⟩, _, _⟩ := u
      cases ft; cases fu; cases hagree
      simp_all [withMode]
    rw [ht, hu, andThen_next, h]

theorem decoderR142_withMode (p : PortsIn) (m : BitVec 2) (s : State) :
    decoderR142 p (withMode m s) = andThen (decoderR142 p s) fun d => .next (withMode m d) := by
  have hbegin : beginCycle (withMode m s) = withMode m (beginCycle s) := rfl
  have hhead : (if serPopR142 p (withMode m s) then (withMode m s).serq.head? else none)
      = if serPopR142 p s then s.serq.head? else none := rfl
  simp only [decoderR142, hbegin, hhead]
  cases p.decClear with
  | true => rfl
  | false =>
    cases (if serPopR142 p s then s.serq.head? else none) with
    | none => rfl
    | some b => exact feed_withMode b m (beginCycle s)

/-- The end of a cycle passes the mode to itself and to its readback only: `CMASK`, which the same write computes, does not
depend on it (R135). -/
theorem finishR142_withMode (p : PortsIn) (m : BitVec 2) (s d : State) : ∃ n,
    finishR142 p (withMode m s) (withMode m d) = withModeReadback n m (finishR142 p s d) := by
  refine ⟨(finishR142 p (withMode m s) d).cmode, ?_⟩
  have hmask : (finishR142 p (withMode m s) d).cmask = (finishR142 p s d).cmask := by
    simp only [finishR142_cmask, withMode]
  exact congrArg (fun mask => { finishR142 p (withMode m s) d with cmask := mask }) hmask

theorem cycleR142_withMode {p : PortsIn} {s t : State} (h : cycleR142 p s = .next t) (m : BitVec 2) :
    ∃ n, cycleR142 p (withMode m s) = .next (withModeReadback n m t) := by
  cases hr : p.rst with
  | true =>
    rw [cycleR142, if_pos hr] at h ⊢
    cases h
    exact ⟨_, rfl⟩
  | false =>
    simp only [cycleR142, hr, Bool.false_eq_true, if_false, decoderR142_withMode] at h ⊢
    cases hd : decoderR142 p s with
    | next d =>
      rw [hd] at h
      cases h
      obtain ⟨n, hn⟩ := finishR142_withMode p m s d
      exact ⟨n, congrArg _ hn⟩
    | fault f => simp [hd] at h
    | refused r => simp [hd] at h

/-- Two results that are the same but for the codes are next states together, the same but for the codes. -/
theorem next_of_forgetCodes_eq {r q : Result} {t : State} (hr : r = .next t)
    (h : andThen r (fun t => .next (forgetCodes t)) = andThen q fun t => .next (forgetCodes t)) :
    ∃ u, q = .next u ∧ forgetCodes u = forgetCodes t := by
  subst hr
  cases q with
  | next u => exact ⟨u, rfl, (Host.Outcome.next.inj h).symm⟩
  | fault f => cases h
  | refused x => cases h

/-- Settles O50: R142's cycle passes the mode to itself and to its readback only, and the model's cycle is R142's. -/
theorem modeHasNoEffect : Obligations.ModeHasNoEffect := by
  intro s t m hstep
  obtain ⟨hlegal, hboundary, hcycle⟩ := step_eq_next hstep
  obtain ⟨t', hspec, ht⟩ := next_of_forgetCodes_eq hcycle (cycle_forgetCodes _ s)
  obtain ⟨n, hmode⟩ := cycleR142_withMode hspec m
  obtain ⟨u, hu, hcodes⟩ := next_of_forgetCodes_eq hmode (cycle_forgetCodes _ (withMode m s)).symm
  refine ⟨u, n, (step_eq_cycle (s := withMode m s) hlegal hboundary).trans hu, hcodes.trans ?_⟩
  exact congrArg (withModeReadback n m) ht

end Sys2Proof.Machine
end

section
/-! PROOFS. The statements of spec/44_cycle.md: the step is R142's cycle, a step runs what its ports ask for (R53, R147), and a
quiescent boundary stays quiescent (R150). -/

namespace Sys2Proof.Machine

/-! ## The cycle of R142 -/

/-- Settles O15: from a legal boundary a step is a cycle, and the cycle's phases in their order are R142's. -/
theorem stepIsCycleOfR142 : Obligations.StepIsCycleOfR142 := by
  intro s hlegal hboundary
  rw [step_eq_cycle hlegal hboundary]
  exact cycle_forgetCodes _ s

/-! ## Quiescence (R150) -/

theorem quiescent_iff (s : State) : quiescent s = true ↔ s.serq = [] ∧ s.btnq = [] ∧ s.bs = .idle := by
  simp [quiescent, emptyQ, and_assoc]

/-- With no byte to take, the decoder's part leaves the wires quiet. -/
theorem decoderR142_quiet {p : PortsIn} {s d : State} (hq : s.serq = []) (h : decoderR142 p s = .next d) :
    d.sig = Signals.quiet := by
  have hpop : serPopR142 p s = false := by simp [serPopR142, hq]
  simp only [decoderR142, hpop] at h
  split at h <;> cases h <;> rfl

/-- From `Idle` without an edge a cycle starts no press and emits no kind. -/
theorem classifyR105_idle_noEdge (cfg : Config) (tick : Bool) (n : Nat) :
    classifyR105 cfg tick none .idle n = (.idle, n, none) := by
  simp [classifyR105]

/-- Settles O56: a reset cycle empties everything; a running one finds no byte and no edge to take, and pushes none. -/
theorem quiescentEmitsNothing : Obligations.QuiescentEmitsNothing := by
  intro s t hquiescent hser hbtn hstep
  obtain ⟨hserq, hbtnq, hidle⟩ := (quiescent_iff s).1 hquiescent
  obtain ⟨hr, hreset⟩ | ⟨hr, d, cs, -, hd, -, hfinish⟩ := step_cases hstep
  · rw [cycleR142, if_pos hr] at hreset
    cases hreset
    exact ⟨rfl, rfl, rfl, rfl⟩
  · have hsig := decoderR142_quiet hserq hd
    have hclass := step_classifies hstep hr
    obtain ⟨hserq', hbtnq', -⟩ := ingressQueuesObeyFifoLaw s t hstep hr
    simp only [hbtnq, hidle, List.head?_nil, ite_self, classifyR105_idle_noEdge, Prod.mk.injEq] at hclass
    obtain ⟨hbs, -, hbev⟩ := hclass
    refine ⟨?_, hbev, ?_, (quiescent_iff t).2 ⟨?_, ?_, hbs⟩⟩
    · rw [hfinish]
      exact congrArg Signals.ev hsig
    · rw [hfinish]
      exact congrArg Signals.ovf hsig
    · simpa [hserq, hser] using hserq'
    · simpa [hbtnq, hbtn] using hbtnq'

/-! ## The wires that an instruction drives (R67, R105) -/

/-- Chains that go on alike from every next state are the same. -/
theorem andThen_congr {r : Result} {f g : State → Result} (h : ∀ t, r = .next t → f t = g t) :
    andThen r f = andThen r g := by
  cases r with
  | next t => exact h t rfl
  | fault x => rfl
  | refused x => rfl

@[simp] theorem andThen_next_right (r : Result) : andThen r (fun t => .next t) = r := by cases r <;> rfl

/-- Only a byte row drives the event. -/
theorem exec_keeps_event {i : Instr} {s t : State} (h : exec i s = .next t) (hrow : isByteRow i = false) :
    t.sig.ev = s.sig.ev := by
  cases exec_ownerWrote h with
  | decoder row => simp [isByteRow_of_encode row] at hrow
  | _ => rfl

/-- Only an edge or a tick drives the press kind. -/
theorem exec_keeps_press {i : Instr} {s t : State} (h : exec i s = .next t) (hrow : ¬ (i = .btnFall ∨ i = .btnRise ∨ i = .tick)) :
    t.sig.bev = s.sig.bev := by
  cases exec_ownerWrote h with
  | decoder row fed => exact (feed_frame fed).bev
  | classifier row => exact absurd row hrow
  | _ => rfl

theorem cfgInstr_not_classifier (sel : BitVec 2) (v : BitVec 32) :
    ¬ (cfgInstr sel v = .btnFall ∨ cfgInstr sel v = .btnRise ∨ cfgInstr sel v = .tick) := by
  unfold cfgInstr
  split_ifs <;> simp

/-! ## A cycle with one port request (R53, R147) -/

@[simp] theorem execIf_false (i : Instr) (s : State) : execIf false i s = .next s := rfl
@[simp] theorem execIf_true (i : Instr) (s : State) : execIf true i s = exec i s := rfl

/-- Without an event the filter asks for nothing. -/
theorem filterPhase_quiet {s : State} (h : s.sig.ev = none) : filterPhase s = .next s := by
  simp [filterPhase, h, filterEvent]

/-- Without a press kind there is no push of one. -/
theorem pressPhase_quiet {s : State} (h : s.sig.bev = none) : pressPhase s = .next s := by
  simp [pressPhase, h]

/-- An instruction that is no byte row, run at the beginning of a cycle, gives the filter nothing to pass. -/
theorem exec_then_filterPhase {i : Instr} (s : State) (hrow : isByteRow i = false) (f : State → Result) :
    andThen (exec i (beginCycle s)) (fun t => andThen (filterPhase t) f) = andThen (exec i (beginCycle s)) f :=
  andThen_congr fun t ht => by rw [filterPhase_quiet (exec_keeps_event ht hrow), andThen_next]

/-- An instruction that is no edge and no tick, run at the beginning of a cycle, gives no press kind to push. -/
theorem exec_then_pressPhase {i : Instr} (s : State) (hrow : ¬ (i = .btnFall ∨ i = .btnRise ∨ i = .tick))
    (f : State → Result) :
    andThen (exec i (beginCycle s)) (fun t => andThen (pressPhase t) f) = andThen (exec i (beginCycle s)) f :=
  andThen_congr fun t ht => by rw [pressPhase_quiet (exec_keeps_press ht hrow), andThen_next]

@[simp] theorem askIf_eq_nil (c : Bool) (i : Instr) : askIf c i = [] ↔ c = false := by
  cases c <;> simp [askIf]

@[simp] theorem askIf_eq_singleton (c : Bool) (i j : Instr) : askIf c i = [j] ↔ c = true ∧ i = j := by
  cases c <;> simp [askIf]

/-- An asked pop of an empty `OUTQ` does what no pop does (R118). -/
theorem execIf_consumerTakes {p : PortsIn} (s : State) (hr : p.rst = false) (hpop : p.outPop = true) :
    execIf (consumerTakes p s) .outPop (beginCycle s) = exec .outPop (beginCycle s) := by
  cases hq : s.outq with
  | nil => rw [exec_outPop_nil (s := beginCycle s) hq]; simp [consumerTakes, outValid, emptyQ, hq]
  | cons w q => simp [consumerTakes, outValid, emptyQ, hq, hr, hpop]

/-- With no edge asked for, the classifier's part of what follows the decoder is the tick. -/
theorem afterDecoder_without_edge {p : PortsIn} (s : State) (hedge : p.btnRun = false) : afterDecoder p s = fun t =>
    andThen (filterPhase t) fun t => andThen (execIf p.tick .tick t) fun t => andThen (pressPhase t) fun t =>
    andThen (consumerPhase p (consumerTakes p s) t) (endCycle false s) := by
  have hnoedge : classifierTakes p s = false := by simp [classifierTakes, hedge]
  funext t
  simp [afterDecoder, hnoedge, classifierPhase]

/-- A cycle that takes neither a byte nor an edge runs its requests, with the push of a press kind before the consumer's. -/
theorem cycle_without_pops {p : PortsIn} (s : State) (hr : p.rst = false) (hrun : (!p.decClear && p.decRun) = false)
    (hedge : p.btnRun = false) : cycle p s =
      andThen (pushPhase p (beginCycle s)) fun t => andThen (execIf p.decClear .decClear t) fun t =>
      andThen (filterPhase t) fun t => andThen (execIf p.tick .tick t) fun t => andThen (pressPhase t) fun t =>
      andThen (consumerPhase p (consumerTakes p s) t) (endCycle false s) := by
  have hnobyte : decoderTakes p s = false := by simp [decoderTakes, hr, hrun]
  rw [cycle, hr, if_neg Bool.false_ne_true, hnobyte, afterDecoder_without_edge s hedge]
  rfl

/-- A cycle that is asked for one operation, and takes no byte and no edge, is that operation: what drives no event finds the
filter quiet, and what drives no press kind may run on either side of its push. -/
theorem cycle_of_request {p : PortsIn} (s : State) {i : Instr} (h : p.requests = [i]) (hser : i ≠ .serPop)
    (hbtn : i ≠ .btnPop) : cycle p s = andThen (exec i (beginCycle s)) fun t =>
      andThen (pressPhase t) (endCycle p.rst s) := by
  cases hr : p.rst with
  | true =>
    obtain rfl : Instr.rst = i := by simpa [PortsIn.requests, hr] using h
    rw [exec_then_pressPhase s (by simp), cycle, if_pos hr]
  | false =>
    have hfilter := filterPhase_quiet (s := beginCycle s) rfl
    have hpress := pressPhase_quiet (s := beginCycle s) rfl
    simp only [PortsIn.requests, hr, Bool.false_eq_true, if_false, List.flatten_cons, List.flatten_nil, List.append_nil,
      List.append_eq_singleton_iff, List.append_eq_nil_iff, askIf_eq_nil, askIf_eq_singleton] at h
    obtain ⟨noSer, ⟨noBtn, ⟨noClear, ⟨noRun, ⟨noTick, ⟨noEdge, ⟨noOut, cfg, rfl⟩ | ⟨⟨out, rfl⟩, noCfg⟩⟩
      | ⟨⟨-, rfl⟩, -⟩⟩ | ⟨⟨tick, rfl⟩, noEdge, noOut, noCfg⟩⟩ | ⟨⟨-, rfl⟩, -⟩⟩
      | ⟨⟨clear, rfl⟩, noRun, noTick, noEdge, noOut, noCfg⟩⟩
      | ⟨⟨btn, rfl⟩, noClear, noRun, noTick, noEdge, noOut, noCfg⟩⟩
      | ⟨⟨ser, rfl⟩, noBtn, noClear, noRun, noTick, noEdge, noOut, noCfg⟩ := h
    -- The configuration write and the consumer's pop, which a cycle runs after the push of a press kind.
    · rw [cycle_without_pops s hr noRun noEdge, exec_then_pressPhase s (cfgInstr_not_classifier _ _)]
      simp [pushPhase, consumerPhase, consumerTakes, *]
    · rw [cycle_without_pops s hr noRun noEdge, exec_then_pressPhase s (by simp)]
      simp [pushPhase, consumerPhase, execIf_consumerTakes s hr out, *]
    · exact absurd rfl hbtn
    -- The tick, the one request that can drive a press kind.
    · rw [cycle_without_pops s hr noRun noEdge]
      simp [pushPhase, consumerPhase, consumerTakes, *]
    · exact absurd rfl hser
    -- The decoder's clear and the ingress pushes, which a cycle runs before the filter.
    all_goals
      rw [cycle_without_pops s hr noRun noEdge, ← exec_then_filterPhase s rfl]
      simp [pushPhase, consumerPhase, consumerTakes, *]

/-- Settles O17: ports that decode make that one request, and the cycle runs it. -/
theorem stepRunsPortRequest : Obligations.StepRunsPortRequest := by
  intro s i hlegal hboundary hdecode hser hbtn
  rw [step_eq_cycle hlegal hboundary]
  exact cycle_of_request s ((decode_ports_eq_ok _ _ _).1 hdecode) hser hbtn

end Sys2Proof.Machine
end

section
/-! PROOFS. The statements of spec/60_exceptions.md: what stops a step (R153, R158), that no reachable boundary does so (R153,
R164), and the drops of one cycle (R156). -/

namespace Sys2Proof.Machine

/-! ## No stop from the invariant (R153, R164) -/

/-- Under the decoder's invariant no feed stops: the bytes that 0xF7 reads were written (R24) and exist (R23). -/
theorem feed_completes {s : State} (h : DecoderInv s) (b : Byte) : ∃ t, feed b s = .next t := by
  obtain hnext | ⟨-, hs, f, hread, -⟩ := feed_next_or_unread b s
  · exact hnext
  · obtain ⟨bytes, hok, -⟩ := memReadPrefix_of_written s s.idx h.idx (h.filled hs)
    cases hread.symm.trans hok

theorem decoderR142_completes {s : State} (h : DecoderInv s) (p : PortsIn) : ∃ d, decoderR142 p s = .next d := by
  have hbegin : DecoderInv (beginCycle s) := h.congr rfl rfl rfl rfl rfl rfl rfl
  unfold decoderR142
  split
  · exact ⟨_, rfl⟩
  · split
    · exact feed_completes hbegin _
    · exact ⟨_, rfl⟩

theorem cycle_completes {s : State} (h : DecoderInv s) (p : PortsIn) : ∃ t, cycle p s = .next t := by
  cases hr : p.rst with
  | true => exact ⟨_, (cycle_reset p s hr).trans (if_pos hr)⟩
  | false =>
    obtain ⟨f, hfault, -⟩ | ⟨d, cs, -, -, -, hnext⟩ := cycle_running p s hr
    · obtain ⟨d, hd⟩ := decoderR142_completes h p
      cases hfault.symm.trans hd
    · exact ⟨_, hnext⟩

/-- Settles O10: the boundary's checks are clauses of the invariant, and under the decoder's part of it no cycle stops. -/
theorem stepNeverStops : Obligations.StepNeverStops := by
  intro s h
  rw [step_eq_cycle h.legal h.boundary]
  exact cycle_completes h.decoder _

/-! ## Runs (R143, R153) -/

theorem run_succ {s t : State} (h : step s = .next t) (n : Nat) :
    Sys2Proof.core.run (n + 1) s = Sys2Proof.core.run n t := by
  have hcore : Sys2Proof.core.step s = .next t := h
  simp only [Host.Core.run, hcore]

/-- A run of any length from the invariant stops nowhere and keeps it. -/
theorem run_keeps_inv (n : Nat) {s : State} (h : Inv s) : ∃ t : State, Sys2Proof.core.run n s = .next t ∧ Inv t := by
  induction n generalizing s with
  | zero => exact ⟨s, rfl, h⟩
  | succ n ih =>
    obtain ⟨t, hstep⟩ := stepNeverStops s h
    rw [run_succ hstep]
    exact ih (stepKeepsInvariant s t h hstep)

/-- Settles O11: power-on of a legal instance meets the invariant, under any inputs to come. -/
theorem runsFromPowerOnNeverStop : Obligations.RunsFromPowerOnNeverStop :=
  fun _ inputs n hlegal => run_keeps_inv n (start_inv inputs hlegal)

/-! ## Drops (R156) -/

/-- Settles O58: a reset cycle raises no code, and each of a running cycle's four pushes drops at most once. -/
theorem atMostFourDropsInACycle : Obligations.AtMostFourDropsInACycle := by
  intro s t h
  obtain ⟨hr, hreset⟩ | ⟨-, d, cs, hdrops, -, -, rfl⟩ := step_cases h
  · simp [cycleR142_reset_quiet hr hreset]
  · exact hdrops

/-! ## What stops a step (R153, R158) -/

/-- The legal ranges of R7, clause by clause. -/
theorem legalConfig_iff (c : Config) : legalConfig c = true ↔ 1 ≤ c.serDepth ∧ 1 ≤ c.btnDepth ∧ 1 ≤ c.outDepth
    ∧ 1 ≤ c.sysexCap ∧ 1 ≤ c.vlongTicks ∧ c.longTicks ≤ c.vlongTicks ∧ c.modCcId ≤ 127 ∧ c.btnId ≤ 255
    ∧ c.maskReset ≤ 0xFFFF ∧ c.modeReset ≤ 3 := by
  simp [legalConfig, and_assoc]

theorem step_of_illegal {s : State} (h : ¬ legalConfig s.cfg = true) : step s = .refused .resourceInitFailure := by
  rw [step, if_neg h]

theorem step_of_unreachable {s : State} (hlegal : legalConfig s.cfg = true) (h : ¬ boundaryOk s = true) :
    step s = .fault .unreachableState := by
  rw [step, if_pos hlegal, if_neg h]

/-- Settles O12: each clause is the negation of one of R7's ranges. -/
theorem illegalParametersRefused : Obligations.IllegalParametersRefused := by
  intro s hrange
  refine step_of_illegal fun hlegal => ?_
  have hranges := (legalConfig_iff s.cfg).1 hlegal
  omega

/-- Settles O13: each clause is the negation of one that a legal boundary asks for (R23, R28, the depths). -/
theorem unreachableBoundaryFaults : Obligations.UnreachableBoundaryFaults := by
  intro s hlegal hshape
  refine step_of_unreachable hlegal fun hboundary => ?_
  obtain ⟨htimer, hidx, hser, hbtn, hout⟩ := (boundaryOk_iff s).1 hboundary
  rw [timerOk_iff] at htimer
  obtain ⟨hs, hbrem⟩ | ⟨hs, hbrem⟩ | hover := hshape
  · exact hbrem (by simpa [TimerAgrees, hs] using htimer)
  · exact hbrem (by simpa [TimerAgrees, hs] using htimer)
  · omega

end Sys2Proof.Machine
end

section
/-! PROOFS. The statements of spec/70_reset_and_hazards.md: block reset (R170), decoder clear (R172), and that both leave the
decoder as from power-on (R173). -/

namespace Sys2Proof.Machine

/-! ## The two resets as instructions (R170, R172) -/

theorem exec_decClear (s : State) : exec .decClear s = .next (clearDecoder s) := rfl

/-- Settles O52: `clearDecoder` and `resetState` are the updates that the statement writes out. -/
theorem resetAndClearInstructions : Obligations.ResetAndClearInstructions :=
  fun s => ⟨exec_decClear s, exec_rst s⟩

/-! ## The two resets over a cycle (R170, R172) -/

/-- A reset cycle at a legal boundary is R142's, whatever the other inputs. -/
theorem step_reset {s : State} (hlegal : legalConfig s.cfg = true) (hboundary : boundaryOk s = true)
    (hr : (nextInputs s).rst = true) :
    step s = .next { resetState (beginCycle s) with out := portsOut true s Signals.quiet } := by
  rw [step_eq_cycle hlegal hboundary, cycle_reset _ _ hr, cycleR142, if_pos hr]
  rfl

/-- Settles O51: the registers are those of `RST`, and the ports those of quiet wires in a reset cycle. -/
theorem resetCycle : Obligations.ResetCycle := fun _ hlegal hboundary hr =>
  ⟨_, step_reset hlegal hboundary hr, rfl, rfl, rfl, rfl, rfl, rfl, rfl, rfl, rfl, rfl, rfl, rfl, rfl, rfl, rfl, rfl, rfl, rfl,
    rfl⟩

theorem decoderR142_of_decClear {p : PortsIn} (h : p.decClear = true) (s : State) :
    decoderR142 p s = .next (clearDecoder (beginCycle s)) := if_pos h

/-- Settles O53: by the law of the ingress queues the clear takes no byte, and it stands in place of the feed in a cycle whose
other parts write no decoder register. -/
theorem decoderClearCycle : Obligations.DecoderClearCycle := by
  intro s t hstep hr hclear
  obtain ⟨hserq, -, htaken, -⟩ := ingressQueuesObeyFifoLaw s t hstep hr
  simp only [hclear, Bool.true_eq_false, false_and, if_false] at hserq htaken
  obtain ⟨hreset, -⟩ | ⟨-, d, cs, -, hd, -, rfl⟩ := step_cases hstep
  · simp [hr] at hreset
  cases (decoderR142_of_decClear hclear s).symm.trans hd
  exact ⟨rfl, rfl, rfl, rfl, rfl, rfl, htaken, rfl, _, hserq⟩

/-! ## A cleared decoder is as from power-on (R173) -/

/-- After a decoder clear a feed cannot tell the state from power-on: no SysEx is in progress, so `BUF` is not read. -/
theorem clearDecoder_agrees_powerOn (s : State) : DecoderAgrees (clearDecoder s) (State.powerOn s.cfg) :=
  ⟨rfl, rfl, rfl, rfl, rfl, nofun⟩

/-- After a block reset a feed cannot tell the state from power-on, for the same reason. -/
theorem resetState_agrees_powerOn (s : State) : DecoderAgrees (resetState s) (State.powerOn s.cfg) :=
  ⟨rfl, rfl, rfl, rfl, rfl, nofun⟩

/-- The outputs of a sequence whose first feed completes: that feed's, then those of the rest. -/
theorem feedBytes_outputs_of_next {b : Byte} {s t : State} (h : feed b s = .next t) (bs : List Byte) :
    (feedBytes (b :: bs) s).map Prod.fst = ((feedBytes bs t).map Prod.fst).map ((t.sig.ev, t.sig.ovf) :: ·) := by
  simp only [feedBytes, exec_decodeByte, h, Option.map_map]
  rfl

theorem feedBytes_of_fault {b : Byte} {s : State} {f : Fault} (h : feed b s = .fault f) (bs : List Byte) :
    feedBytes (b :: bs) s = none := by
  simp only [feedBytes, exec_decodeByte, h]

/-- Two states that a feed cannot tell apart give the same outputs for every byte sequence. -/
theorem feedBytes_outputs_agree (bs : List Byte) {x y : State} (h : DecoderAgrees x y) :
    (feedBytes bs x).map Prod.fst = (feedBytes bs y).map Prod.fst := by
  induction bs generalizing x y with
  | nil => rfl
  | cons b bs ih =>
    obtain ⟨f, hx, hy⟩ | ⟨t, u, -, hx, hy, hagree, hev, hovf, -⟩ := feed_agrees h b
    · rw [feedBytes_of_fault hx, feedBytes_of_fault hy]
    · rw [feedBytes_outputs_of_next hx, feedBytes_outputs_of_next hy, ih hagree, hev, hovf]

/-- A second decoder clear leaves the same state as one. -/
theorem exec_decClear_again {s t : State} (h : exec .decClear s = .next t) : exec .decClear t = .next t := by
  cases h
  rfl

/-- A second block reset leaves the same state as one. -/
theorem exec_rst_again {s t : State} (h : exec .rst s = .next t) : exec .rst t = .next t := by
  cases h
  rfl

/-- Settles O35: both resets leave a state that no feed can tell from power-on. -/
theorem clearedDecoderIsFresh : Obligations.ClearedDecoderIsFresh := by
  rintro bs s t (h | h)
  · cases (exec_decClear s).symm.trans h
    exact ⟨feedBytes_outputs_agree bs (clearDecoder_agrees_powerOn s), rfl, rfl, rfl, rfl, rfl,
      exec_decClear_again, exec_rst_again⟩
  · cases (exec_rst s).symm.trans h
    exact ⟨feedBytes_outputs_agree bs (resetState_agrees_powerOn s), rfl, rfl, rfl, rfl, rfl,
      exec_decClear_again, exec_rst_again⟩

end Sys2Proof.Machine
end
